-- ==== Sys2Proof/Word.lean ====
section
/-! DEFINITION. The words of the block: every register is 32 bits wide (R5 `XLEN_REG`), bit 0 the least significant (R6). -/

namespace Sys2Proof

/-- A 32-bit register value, bus word or bus address (R5, R6, D3). -/
abbrev Word := BitVec 32

/-- A byte. -/
abbrev Byte := BitVec 8

end Sys2Proof
end

