-- ==== Sys2Proof/Config.lean ====
section
/-! DEFINITION. What an implementation fixes (R5) and the free values the spec leaves open (R10). -/

namespace Sys2Proof

/-- `draw32()` of R9 and R10: the n-th value the spec leaves open. It has no body, so nothing can be proved about
the value, and a statement that mentions it holds whatever the value is. The argument is the counter
`Machine.State.draws`, which every draw advances, so no two draws are tied to each other. -/
opaque Config.draw32 : Nat → Word

/-- The open parameters of ONE instance (R5, D4, D16, D25). They are plain data beside the instance's registers, no
step changes them, and every statement quantifies over them. -/
structure Params where
  /-- `BASE`, the byte address of offset 0 (R5, R39). -/
  base : Word
  /-- `REGION_SIZE`, the number of bytes the system routes to the instance (R5, R39). -/
  regionSize : Nat
  /-- `ENGINE_GATED_BY_EN` (R5, R122, D16). -/
  engineGated : Bool
  /-- The one bus agent admitted to the instance (R49, D25). -/
  owner : Nat
  deriving DecidableEq, Repr

/-- The register window: offsets 0x00 to 0x3F (R5 `WINDOW`, R39). -/
abbrev Config.windowSize : Nat := 0x40

/-- The members of each indexed family (R5 `N_FAMILY`). -/
abbrev Config.familySize : Nat := 4

end Sys2Proof
end

