-- ==== Sys2Proof/Syntax.lean ====
section
/-! DEFINITION. The 16 register names (R19) and the instructions: one constructor per row of spec/opcode_table.json,
that is, the read and the write of each register (R60). A write carries WDATA, 32 bits (R54, R56). -/

namespace Sys2Proof

/-- The 16 named registers of an instance, in the order of the table of R19. -/
inductive RegName where
  | conset | stat | dat | adr0 | sclh | scll | conclr | mmctrl
  | adr1 | adr2 | adr3 | databuf | mask0 | mask1 | mask2 | mask3
  deriving DecidableEq, Repr

/-- All register names, in the order of R19. -/
def RegName.all : List RegName :=
  [.conset, .stat, .dat, .adr0, .sclh, .scll, .conclr, .mmctrl,
   .adr1, .adr2, .adr3, .databuf, .mask0, .mask1, .mask2, .mask3]

/-- The byte offset of a register from `BASE` (R19, column "offset"). -/
def RegName.offset : RegName → Nat
  | .conset => 0x00 | .stat => 0x04 | .dat => 0x08 | .adr0 => 0x0C
  | .sclh => 0x10 | .scll => 0x14 | .conclr => 0x18 | .mmctrl => 0x1C
  | .adr1 => 0x20 | .adr2 => 0x24 | .adr3 => 0x28 | .databuf => 0x2C
  | .mask0 => 0x30 | .mask1 => 0x34 | .mask2 => 0x38 | .mask3 => 0x3C

/-- The instructions: the legal accesses of R60, in the order of spec/opcode_table.json. -/
inductive Instr where
  | rdConset | rdStat | rdDat | rdAdr0 | rdSclh | rdScll | rdConclr | rdMmctrl
  | rdAdr1 | rdAdr2 | rdAdr3 | rdDatabuf | rdMask0 | rdMask1 | rdMask2 | rdMask3
  | wrConset (wdata : Word) | wrStat (wdata : Word) | wrDat (wdata : Word) | wrAdr0 (wdata : Word)
  | wrSclh (wdata : Word) | wrScll (wdata : Word) | wrConclr (wdata : Word) | wrMmctrl (wdata : Word)
  | wrAdr1 (wdata : Word) | wrAdr2 (wdata : Word) | wrAdr3 (wdata : Word) | wrDatabuf (wdata : Word)
  | wrMask0 (wdata : Word) | wrMask1 (wdata : Word) | wrMask2 (wdata : Word) | wrMask3 (wdata : Word)
  deriving DecidableEq, Repr

/-- The register an instruction accesses. -/
def Instr.reg : Instr → RegName
  | .rdConset => .conset | .rdStat => .stat | .rdDat => .dat | .rdAdr0 => .adr0
  | .rdSclh => .sclh | .rdScll => .scll | .rdConclr => .conclr | .rdMmctrl => .mmctrl
  | .rdAdr1 => .adr1 | .rdAdr2 => .adr2 | .rdAdr3 => .adr3 | .rdDatabuf => .databuf
  | .rdMask0 => .mask0 | .rdMask1 => .mask1 | .rdMask2 => .mask2 | .rdMask3 => .mask3
  | .wrConset _ => .conset | .wrStat _ => .stat | .wrDat _ => .dat | .wrAdr0 _ => .adr0
  | .wrSclh _ => .sclh | .wrScll _ => .scll | .wrConclr _ => .conclr | .wrMmctrl _ => .mmctrl
  | .wrAdr1 _ => .adr1 | .wrAdr2 _ => .adr2 | .wrAdr3 _ => .adr3 | .wrDatabuf _ => .databuf
  | .wrMask0 _ => .mask0 | .wrMask1 _ => .mask1 | .wrMask2 _ => .mask2 | .wrMask3 _ => .mask3

/-- WDATA of a write, none for a read (R56). -/
def Instr.wdata? : Instr → Option Word
  | .rdConset | .rdStat | .rdDat | .rdAdr0 | .rdSclh | .rdScll | .rdConclr | .rdMmctrl
  | .rdAdr1 | .rdAdr2 | .rdAdr3 | .rdDatabuf | .rdMask0 | .rdMask1 | .rdMask2 | .rdMask3 => none
  | .wrConset w | .wrStat w | .wrDat w | .wrAdr0 w | .wrSclh w | .wrScll w | .wrConclr w | .wrMmctrl w
  | .wrAdr1 w | .wrAdr2 w | .wrAdr3 w | .wrDatabuf w | .wrMask0 w | .wrMask1 w | .wrMask2 w | .wrMask3 w => some w

end Sys2Proof
end

