-- ==== Sys2Proof/WellFormed.lean ====
section
/-! DEFINITION. The checks the spec puts on an access (R43, R44, R71), on the placement of the instances (R41, D4) and
on an instruction. An instruction's operands are typed, so what is left to check of it is that its register's word
passes the three access checks. -/

namespace Sys2Proof

/-- R43: the one admitted access size is 4 bytes. -/
def accessSizeOk (size : Nat) : Bool := size == 4

/-- R44: the offset of a 4-byte access has bits [1:0] = 00. -/
def offsetAligned (off : Nat) : Bool := off % 4 == 0

/-- R71: the offset lies in the register window. -/
def offsetInWindow (off : Nat) : Bool := decide (off < Config.windowSize)

/-- A well-formed instruction: a 4-byte access to a register's own aligned word inside the window (R60). -/
def Instr.wf (i : Instr) : Bool :=
  accessSizeOk 4 && offsetAligned i.reg.offset && offsetInWindow i.reg.offset

/-- D4: `REGION_SIZE` is a power of two of at least 0x40, within the 32-bit address space. -/
def regionSizeOk (n : Nat) : Bool :=
  decide (Config.windowSize ≤ n) && decide (n ≤ 2 ^ 32) && n == 2 ^ Nat.log2 n

/-- D4: `REGION_SIZE` is legal and `BASE` is a multiple of it. -/
def Params.wf (p : Params) : Bool := regionSizeOk p.regionSize && p.base.toNat % p.regionSize == 0

/-- R41: two instances' regions have no address in common. -/
def Params.disjoint (p q : Params) : Bool :=
  decide (p.base.toNat + p.regionSize ≤ q.base.toNat) || decide (q.base.toNat + q.regionSize ≤ p.base.toNat)

/-- Every two regions of the list are disjoint (R41). -/
def pairwiseDisjoint : List Params → Bool
  | [] => true
  | p :: ps => ps.all (Params.disjoint p) && pairwiseDisjoint ps

/-- The platform is legal: at least one instance (R5 `N_INST`), each placed as D4 says, no two regions meeting (R41). -/
def placementsOk (ps : List Params) : Bool := !ps.isEmpty && ps.all Params.wf && pairwiseDisjoint ps

end Sys2Proof
end

