-- ==== Sys2Proof/Decode.lean ====
section
/-! DEFINITION. Decoding an access word and its write data (30_encoding.md R54 to R61), and the encoder.

The access word AW has 9 bits and no memory image in the spec. Here it stands in a 16-bit container, low byte first,
bits 15 to 9 zero, and WDATA follows a write as four bytes, low byte first (DESIGN CHOICE, log entry 5). -/

namespace Sys2Proof

/-- Why bytes are no legal access. -/
inductive DecodeError where
  /-- There are fewer bytes than the access takes. -/
  | truncated
  /-- A bit of the container above AW[8] is set: these bytes are no access word. -/
  | notAnAccessWord
  /-- SZ is not `10` (R55, R61). -/
  | illegalSize
  /-- OFF[1:0] is not `00` (R57, R61). -/
  | misaligned
  deriving DecidableEq, Repr

/-- SZ = AW[8:7] (R54, R55). -/
def awSize (aw : BitVec 9) : BitVec 2 := aw.extractLsb' 7 2

/-- W = AW[6]: true for a write (R54, R56). -/
def awWrite (aw : BitVec 9) : Bool := aw.getLsbD 6

/-- OFF = AW[5:0] (R54, R57). -/
def awOff (aw : BitVec 9) : BitVec 6 := aw.extractLsb' 0 6

/-- The register index k = OFF[5:2] (R58). -/
def offIndex (off : BitVec 6) : BitVec 4 := off.extractLsb' 2 4

/-- The misalignment OFF[1:0] (R57). -/
def offLow (off : BitVec 6) : BitVec 2 := off.extractLsb' 0 2

/-- The select of R58 and R72: the register of index k. All 16 indices are assigned; the last arm is k = 1111. -/
def selectReg (k : BitVec 4) : RegName :=
  match k.toNat with
  | 0 => .conset
  | 1 => .stat
  | 2 => .dat
  | 3 => .adr0
  | 4 => .sclh
  | 5 => .scll
  | 6 => .conclr
  | 7 => .mmctrl
  | 8 => .adr1
  | 9 => .adr2
  | 10 => .adr3
  | 11 => .databuf
  | 12 => .mask0
  | 13 => .mask1
  | 14 => .mask2
  | _ => .mask3

/-- The read of a register (R76). -/
def readOf : RegName → Instr
  | .conset => .rdConset
  | .stat => .rdStat
  | .dat => .rdDat
  | .adr0 => .rdAdr0
  | .sclh => .rdSclh
  | .scll => .rdScll
  | .conclr => .rdConclr
  | .mmctrl => .rdMmctrl
  | .adr1 => .rdAdr1
  | .adr2 => .rdAdr2
  | .adr3 => .rdAdr3
  | .databuf => .rdDatabuf
  | .mask0 => .rdMask0
  | .mask1 => .rdMask1
  | .mask2 => .rdMask2
  | .mask3 => .rdMask3

/-- The write of a register with WDATA = `w` (R77). -/
def writeOf (r : RegName) (w : Word) : Instr :=
  match r with
  | .conset => .wrConset w
  | .stat => .wrStat w
  | .dat => .wrDat w
  | .adr0 => .wrAdr0 w
  | .sclh => .wrSclh w
  | .scll => .wrScll w
  | .conclr => .wrConclr w
  | .mmctrl => .wrMmctrl w
  | .adr1 => .wrAdr1 w
  | .adr2 => .wrAdr2 w
  | .adr3 => .wrAdr3 w
  | .databuf => .wrDatabuf w
  | .mask0 => .wrMask0 w
  | .mask1 => .wrMask1 w
  | .mask2 => .wrMask2 w
  | .mask3 => .wrMask3 w

/-- Decode the pair (AW, WDATA) of R54: the legal words are those of R60, the others are rejected by name (R61). A
read ignores `w`. -/
def decodeAccess (aw : BitVec 9) (w : Word) : Except DecodeError Instr :=
  if awSize aw ≠ 0b10#2 then .error .illegalSize
  else if offLow (awOff aw) ≠ 0b00#2 then .error .misaligned
  else if awWrite aw then .ok (writeOf (selectReg (offIndex (awOff aw))) w)
  else .ok (readOf (selectReg (offIndex (awOff aw))))

/-- Four bytes as a word, low byte first. -/
def wordOfBytes (b0 b1 b2 b3 : Byte) : Word := b3 ++ b2 ++ b1 ++ b0

/-- A word as four bytes, low byte first. -/
def bytesOfWord (w : Word) : List Byte :=
  [w.extractLsb' 0 8, w.extractLsb' 8 8, w.extractLsb' 16 8, w.extractLsb' 24 8]

/-- The access word of a container's two bytes. -/
def awOfBytes (lo hi : Byte) : BitVec 9 := hi.extractLsb' 0 1 ++ lo

/-- An access word in its container of two bytes. -/
def bytesOfAw (aw : BitVec 9) : List Byte := [aw.extractLsb' 0 8, (aw.extractLsb' 8 1).setWidth 8]

/-- Decode the first access of a list of bytes and return the rest. -/
def decode : List Byte → Except DecodeError (Instr × List Byte)
  | lo :: hi :: rest =>
    if hi.extractLsb' 1 7 ≠ 0#7 then .error .notAnAccessWord
    else if awWrite (awOfBytes lo hi) then
      match rest with
      | b0 :: b1 :: b2 :: b3 :: rest' =>
        match decodeAccess (awOfBytes lo hi) (wordOfBytes b0 b1 b2 b3) with
        | .ok i => .ok (i, rest')
        | .error e => .error e
      | _ => .error .truncated
    else
      match decodeAccess (awOfBytes lo hi) 0#32 with
      | .ok i => .ok (i, rest)
      | .error e => .error e
  | _ => .error .truncated

/-- The index k of a register (R58), as the encoder writes it. -/
def regIndex : RegName → BitVec 4
  | .conset => 0b0000#4
  | .stat => 0b0001#4
  | .dat => 0b0010#4
  | .adr0 => 0b0011#4
  | .sclh => 0b0100#4
  | .scll => 0b0101#4
  | .conclr => 0b0110#4
  | .mmctrl => 0b0111#4
  | .adr1 => 0b1000#4
  | .adr2 => 0b1001#4
  | .adr3 => 0b1010#4
  | .databuf => 0b1011#4
  | .mask0 => 0b1100#4
  | .mask1 => 0b1101#4
  | .mask2 => 0b1110#4
  | .mask3 => 0b1111#4

/-- The access word of an instruction: `0x100 | (k << 2)` for a read, `0x140 | (k << 2)` for a write (R60). -/
def accessWordOf (i : Instr) : BitVec 9 :=
  (match i.wdata? with
   | none => 0x100#9
   | some _ => 0x140#9) ||| ((regIndex i.reg).setWidth 9 <<< 2)

/-- The bytes of an instruction: its access word, then WDATA if it is a write (R54). -/
def encode (i : Instr) : List Byte :=
  match i.wdata? with
  | none => bytesOfAw (accessWordOf i)
  | some w => bytesOfAw (accessWordOf i) ++ bytesOfWord w

/-- SZ of an access of `size` bytes (R55): `11` stands for every size but 1, 2 and 4. -/
def sizeCode (size : Nat) : BitVec 2 :=
  match size with
  | 1 => 0b00#2
  | 2 => 0b01#2
  | 4 => 0b10#2
  | _ => 0b11#2

/-- Form AW from the parts of an access: SZ in [8:7], W in [6], OFF in [5:0] (R54). -/
def formAccessWord (size : Nat) (write : Bool) (off : Nat) : BitVec 9 :=
  sizeCode size ++ BitVec.ofBool write ++ BitVec.ofNat 6 off

/-- The container's bytes for the access word of a table word, and zeros above it, as many as the longest instruction
takes (two bytes of access word and four of WDATA). -/
def tableWordBytes (nbits w : Nat) : List Byte :=
  (List.range 6).map fun j => BitVec.ofNat 8 (w % 2 ^ nbits / 256 ^ j)

/-- The instruction `decode` reads from an instruction whose bits, numbered as spec/opcode_table.json numbers them,
are `w`; every bit at `nbits` and above is 0. -/
def decodeTableWord (nbits w : Nat) : Option Instr :=
  match decode (tableWordBytes nbits w) with
  | .ok (i, _) => some i
  | .error _ => none

end Sys2Proof
end

