-- ==== Sys2Proof/Machine/Registers.lean ====
section
/-! DEFINITION. The registers of one instance (R12), its fault set (R31, R134), and what can reach it: a bus access
(R67), an engine event (R114), a reset (R147). Plain data throughout. -/

namespace Sys2Proof.Machine

/-- CON, the hidden control register: five bits with no address of their own (R13). -/
structure Con where
  /-- CON.AA, bit 2 (R14). -/
  aa : Bool
  /-- CON.SI, bit 3, the interrupt flag (R15). -/
  si : Bool
  /-- CON.STO, bit 4 (R16). -/
  sto : Bool
  /-- CON.STA, bit 5 (R17). -/
  sta : Bool
  /-- CON.I2CEN, bit 6 (R18). -/
  i2cen : Bool
  deriving DecidableEq, Repr

/-- The six fault kinds of R134. They are recorded and never stop the block (R11, R135). -/
inductive FaultKind where
  /-- F_SIZE, code 1 (R69). -/
  | size
  /-- F_MISALIGNED, code 2 (R70). -/
  | misaligned
  /-- F_UNMAPPED, code 3 (R71). -/
  | unmapped
  /-- F_WRITEONLY_READ, code 4 (R81, R82). -/
  | writeOnlyRead
  /-- F_READONLY_WRITE, code 5 (R84, R88). -/
  | readOnlyWrite
  /-- F_RESERVED_WRITE, code 6 (R75, R79, R80). -/
  | reservedWrite
  deriving DecidableEq, Repr

/-- FAULTS, a set over the six kinds (R31): one membership bit each, so that equal sets are equal data. -/
structure FaultSet where
  size : Bool
  misaligned : Bool
  unmapped : Bool
  writeOnlyRead : Bool
  readOnlyWrite : Bool
  reservedWrite : Bool
  deriving DecidableEq, Repr

/-- The empty fault set (R37). -/
def FaultSet.empty : FaultSet := ⟨false, false, false, false, false, false⟩

/-- One instance: its open parameters (R5) and its state (R12). Only defined bits are stored (R32). -/
structure Instance where
  /-- The parameters the platform fixes (R5). -/
  params : Params
  /-- CON (R13). -/
  con : Con
  /-- DAT (R23). -/
  dat : BitVec 8
  /-- ADR0: GC in bit 0, ADDR in bits 7:1 (R24). -/
  adr0 : BitVec 8
  /-- ADR1 (R24). -/
  adr1 : BitVec 8
  /-- ADR2 (R24). -/
  adr2 : BitVec 8
  /-- ADR3 (R24). -/
  adr3 : BitVec 8
  /-- MASK0: the seven bits of field MASK (R25). -/
  mask0 : BitVec 7
  /-- MASK1 (R25). -/
  mask1 : BitVec 7
  /-- MASK2 (R25). -/
  mask2 : BitVec 7
  /-- MASK3 (R25). -/
  mask3 : BitVec 7
  /-- SCLH (R26). -/
  sclh : BitVec 16
  /-- SCLL (R27). -/
  scll : BitVec 16
  /-- MMCTRL: MM_ENA 0, ENA_SCL 1, MATCH_ALL 2 (R28). -/
  mmctrl : BitVec 3
  /-- DATABUF (R29). -/
  databuf : BitVec 8
  /-- STATC, the status code the engine presents (R22). -/
  statc : BitVec 5
  /-- FAULTS (R31). -/
  faults : FaultSet
  deriving DecidableEq, Repr

/-- What an access asks for (R56): a read, a write with its data, or an instruction fetch, which the spec refuses (R52). -/
inductive AccessKind where
  | read
  | write (wdata : Word)
  | fetch
  deriving DecidableEq, Repr

/-- One bus access as it arrives at the port (R67): who issues it (R49), kind, address and size in bytes. -/
structure BusAccess where
  agent : Nat
  kind : AccessKind
  addr : Word
  size : Nat
  deriving DecidableEq, Repr

/-- The default `ENGINE_EVENTS` of R114. -/
inductive EngineEvent where
  /-- R116. -/
  | setSI
  /-- R117. -/
  | clearSTA
  /-- R118. -/
  | clearSTO
  /-- R119. -/
  | setStat (c : BitVec 5)
  /-- R120. -/
  | loadDAT (b : Byte)
  /-- R121. -/
  | loadDATABUF (b : Byte)
  deriving DecidableEq, Repr

/-- What can arrive next (R30): an access at the bus, an event of the engine of instance `n`, a RESET of instance `n`. -/
inductive Input where
  | access (a : BusAccess)
  | engine (n : Nat) (e : EngineEvent)
  | reset (n : Nat)
  deriving DecidableEq, Repr

end Sys2Proof.Machine
end

