-- ==== Sys2Proof/Machine/ResetValues.lean ====
section
/-! DEFINITION. What reset leaves in an instance (R34 to R37), and the platform State.reset stands for. -/

namespace Sys2Proof.Machine

/-- CON = 0: AA, SI, STO, STA and I2CEN are all 0 (R34, D19). -/
def Con.atReset : Con := ⟨false, false, false, false, false⟩

/-- How many draws one reset takes: STATC (R35) and the thirteen storage registers of R36. -/
abbrev resetDraws : Nat := 14

/-- An instance right after reset, its draws starting at number `n`: CON = 0 (R34), STATC a draw (R35), every storage
register a draw of its defined bits, held from here on (R36), and the fault set as it was (R37). -/
def Instance.atReset (p : Params) (n : Nat) (kept : FaultSet) : Instance :=
  { params := p
    con := Con.atReset
    statc := (Config.draw32 n).setWidth 5
    dat := (Config.draw32 (n + 1)).setWidth 8
    adr0 := (Config.draw32 (n + 2)).setWidth 8
    adr1 := (Config.draw32 (n + 3)).setWidth 8
    adr2 := (Config.draw32 (n + 4)).setWidth 8
    adr3 := (Config.draw32 (n + 5)).setWidth 8
    mask0 := (Config.draw32 (n + 6)).setWidth 7
    mask1 := (Config.draw32 (n + 7)).setWidth 7
    mask2 := (Config.draw32 (n + 8)).setWidth 7
    mask3 := (Config.draw32 (n + 9)).setWidth 7
    sclh := (Config.draw32 (n + 10)).setWidth 16
    scll := (Config.draw32 (n + 11)).setWidth 16
    mmctrl := (Config.draw32 (n + 12)).setWidth 3
    databuf := (Config.draw32 (n + 13)).setWidth 8
    faults := kept }

/-- The platform State.reset stands for (DESIGN CHOICE, log entry 4): base 0x40000000 as the test vectors illustrate,
a region of 0x80 bytes so that an unmapped offset exists, the engine not gated (the default of R5), bus agent 0. -/
def platformAtReset : Params :=
  { base := 0x40000000#32, regionSize := 0x80, engineGated := false, owner := 0 }

end Sys2Proof.Machine
end

