-- ==== Sys2Proof/Machine/State.lean ====
section
/-! DEFINITION. The state of the machine: its instances (R12), what is still to arrive at them (R30), the data the bus
last read (R67), and two fields of the model's own, the selected instance and the counter of draws. -/

namespace Sys2Proof.Machine

/-- The machine. -/
structure State where
  /-- The instances, `N_INST` of them (R5, R12). -/
  insts : List Instance
  /-- The instance the port has selected for the access in progress (R68, R72). The model's own field (log entry 15). -/
  sel : Nat
  /-- What arrives next, the first first: the sequence of accesses, engine events and resets of R30 (log entry 1). -/
  inputs : List Input
  /-- RDATA of the last input performed, none where it returned no data (R56, R67, R115). -/
  rdata : Option Word
  /-- How many draws have been taken (R10). The model's own field (log entry 2). -/
  draws : Nat
  deriving DecidableEq, Repr

/-- Why the machine would stop with a fault: never. The faults of this hardware (R134) are recorded in FAULTS and stop
nothing (R11, R135), so no step ends in a halting fault and the type has no constructor (log entry 14). -/
inductive Fault where
  deriving DecidableEq, Repr

/-- Why an input has no meaning. Every refusal is safe: nothing can be proved about what would follow it. -/
inductive Refusal where
  /-- An instruction that has no meaning yet. Nothing raises it: every arm of exec has its meaning. Safe. -/
  | notModelled (mnemonic : String)
  /-- An instruction fetch from an instance's region, raised by the port (R52: "refused by the model"). Safe. -/
  | instructionFetch
  /-- An access by a second bus agent to an instance that admits one, raised by the port (R49, R153, D25). Safe. -/
  | secondBusAgent
  /-- An input, or a selection, that names an instance the machine does not have (log entry 15). Safe. -/
  | noSuchInstance
  /-- The port formed bytes that the decoder rejects. The port's checks leave only legal words (R72), so no step raises
  it. Safe. -/
  | undecodable
  deriving DecidableEq, Repr

/-- The machine right after reset, as R34 to R37 and R148 say: one instance (log entry 4), nothing still to arrive, no
read data, the reset's own draws taken. -/
def State.reset : State :=
  { insts := [Instance.atReset platformAtReset 0 FaultSet.empty]
    sel := 0
    inputs := []
    rdata := none
    draws := resetDraws }

/-- The outcome of a meaning. -/
abbrev Result := Host.Outcome State Fault Refusal

end Sys2Proof.Machine
end

