-- ==== Sys2Proof/Machine/Flags.lean ====
section
/-! DEFINITION. The flags: the five CON bits (R13, R33), how CONSET and CONCLR change them (R79, R80), the interrupt
output (R113), and membership in the fault set (R31, R134). -/

namespace Sys2Proof.Machine

/-- CONVAL: CON placed at bits 2 to 6 of a word (R13). -/
def Con.conval (c : Con) : Word :=
  ((BitVec.ofBool c.aa).setWidth 32 <<< 2) ||| ((BitVec.ofBool c.si).setWidth 32 <<< 3) |||
  ((BitVec.ofBool c.sto).setWidth 32 <<< 4) ||| ((BitVec.ofBool c.sta).setWidth 32 <<< 5) |||
  ((BitVec.ofBool c.i2cen).setWidth 32 <<< 6)

/-- The write of CONSET: each bit whose position holds 1 becomes 1, the others stay (R79). -/
def Con.setBy (w : Word) (c : Con) : Con :=
  { aa := if w.getLsbD 2 then true else c.aa
    si := if w.getLsbD 3 then true else c.si
    sto := if w.getLsbD 4 then true else c.sto
    sta := if w.getLsbD 5 then true else c.sta
    i2cen := if w.getLsbD 6 then true else c.i2cen }

/-- The write of CONCLR: AA, SI, STA and I2CEN become 0 where their position holds 1; STO is no bit of CONCLR (R80, C2). -/
def Con.clearBy (w : Word) (c : Con) : Con :=
  { aa := if w.getLsbD 2 then false else c.aa
    si := if w.getLsbD 3 then false else c.si
    sto := c.sto
    sta := if w.getLsbD 5 then false else c.sta
    i2cen := if w.getLsbD 6 then false else c.i2cen }

/-- The interrupt output: level-sensitive, `irq = CON.SI`, gated by nothing (R113). -/
def Instance.irq (x : Instance) : Bool := x.con.si

/-- The spec's code of a fault kind (R134). Code 0 means no fault. -/
def FaultKind.code : FaultKind → Nat
  | .size => 1
  | .misaligned => 2
  | .unmapped => 3
  | .writeOnlyRead => 4
  | .readOnlyWrite => 5
  | .reservedWrite => 6

/-- Is the kind in the set? (R31) -/
def FaultSet.has (f : FaultSet) : FaultKind → Bool
  | .size => f.size
  | .misaligned => f.misaligned
  | .unmapped => f.unmapped
  | .writeOnlyRead => f.writeOnlyRead
  | .readOnlyWrite => f.readOnlyWrite
  | .reservedWrite => f.reservedWrite

/-- The set with one kind more (R11, R31). -/
def FaultSet.add (f : FaultSet) : FaultKind → FaultSet
  | .size => { f with size := true }
  | .misaligned => { f with misaligned := true }
  | .unmapped => { f with unmapped := true }
  | .writeOnlyRead => { f with writeOnlyRead := true }
  | .readOnlyWrite => { f with readOnlyWrite := true }
  | .reservedWrite => { f with reservedWrite := true }

end Sys2Proof.Machine
end

