-- ==== Sys2Proof/Machine/Operands.lean ====
section
/-! DEFINITION. The operands of an access: the address and offset of a register (R40, R68), the defined mask of each
register (R19, R32), a register's stored bits placed in a word (R74) and the stored form of a written word (R75). -/

namespace Sys2Proof.Machine

/-- The region check of R68: does `addr` lie in `[BASE, BASE + REGION_SIZE)`? -/
def Instance.covers (x : Instance) (addr : Word) : Bool :=
  decide (x.params.base.toNat ≤ addr.toNat) && decide (addr.toNat < x.params.base.toNat + x.params.regionSize)

/-- The absolute address of a register: `BASE + offset`, modulo 2^32 (R40); the offset is four times the index (R19). -/
def registerWordAddress (base : Word) (r : RegName) : Word := base + ((regIndex r).setWidth 32 <<< 2)

/-- `off = addr - BASE` (R68). -/
def offsetOf (p : Params) (addr : Word) : Nat := (addr - p.base).toNat

/-- The defined mask of a register (R19, column "defined mask"). Its complement is the reserved mask of R32. -/
def defmask : RegName → Word
  | .conset => 0x0000007C#32
  | .stat => 0x000000F8#32
  | .dat => 0x000000FF#32
  | .adr0 => 0x000000FF#32
  | .sclh => 0x0000FFFF#32
  | .scll => 0x0000FFFF#32
  | .conclr => 0x0000006C#32
  | .mmctrl => 0x00000007#32
  | .adr1 => 0x000000FF#32
  | .adr2 => 0x000000FF#32
  | .adr3 => 0x000000FF#32
  | .databuf => 0x000000FF#32
  | .mask0 => 0x000000FE#32
  | .mask1 => 0x000000FE#32
  | .mask2 => 0x000000FE#32
  | .mask3 => 0x000000FE#32

/-- `value(R)` of R74: the bits behind a register at their positions in a word. CONSET and CONCLR are views of CON and
have no storage but CON (R20, R21); no read rule uses their rows. -/
def Instance.placed (x : Instance) : RegName → Word
  | .conset => x.con.conval
  | .stat => x.statc.setWidth 32 <<< 3
  | .dat => x.dat.setWidth 32
  | .adr0 => x.adr0.setWidth 32
  | .sclh => x.sclh.setWidth 32
  | .scll => x.scll.setWidth 32
  | .conclr => x.con.conval
  | .mmctrl => x.mmctrl.setWidth 32
  | .adr1 => x.adr1.setWidth 32
  | .adr2 => x.adr2.setWidth 32
  | .adr3 => x.adr3.setWidth 32
  | .databuf => x.databuf.setWidth 32
  | .mask0 => x.mask0.setWidth 32 <<< 1
  | .mask1 => x.mask1.setWidth 32 <<< 1
  | .mask2 => x.mask2.setWidth 32 <<< 1
  | .mask3 => x.mask3.setWidth 32 <<< 1

/-- `reg[R] <- stored form of w` of R75, for the read-write registers: bits 7:1 for MASKn, the low bits for the others.
The four registers that are not read-write (R19) have no GenWrite, and nothing is stored in them. -/
def Instance.store (x : Instance) (r : RegName) (w : Word) : Instance :=
  match r with
  | .dat => { x with dat := w.setWidth 8 }
  | .adr0 => { x with adr0 := w.setWidth 8 }
  | .adr1 => { x with adr1 := w.setWidth 8 }
  | .adr2 => { x with adr2 := w.setWidth 8 }
  | .adr3 => { x with adr3 := w.setWidth 8 }
  | .mask0 => { x with mask0 := w.extractLsb' 1 7 }
  | .mask1 => { x with mask1 := w.extractLsb' 1 7 }
  | .mask2 => { x with mask2 := w.extractLsb' 1 7 }
  | .mask3 => { x with mask3 := w.extractLsb' 1 7 }
  | .sclh => { x with sclh := w.setWidth 16 }
  | .scll => { x with scll := w.setWidth 16 }
  | .mmctrl => { x with mmctrl := w.setWidth 3 }
  | .conset => x
  | .conclr => x
  | .stat => x
  | .databuf => x

/-- Does a written word hold a 1 in a reserved bit of the register? (R32, R62) -/
def reservedSet (r : RegName) (w : Word) : Bool := w &&& ~~~(defmask r) != 0#32

end Sys2Proof.Machine
end

