-- ==== Sys2Proof/Machine/Ops.lean ====
section
/-! DEFINITION. The shared operations every meaning is made of: recording a fault, completing a read or a write of the
selected instance, the generic read and write (R74, R75), the two one-way registers' effects (R81, R84), and the
effect of an access a check of the port rejects (R69 to R71).

Taking an exception: the block has no trap entry and no trap return (R139, R140). What it has instead is `raise`, the
one operation that records a usage-contract fault, precise and without stopping anything (R11, R135). -/

namespace Sys2Proof.Machine

/-- `raise Fault(k)` (R9, R11): the kind joins the instance's sticky fault set. -/
def Instance.raise (x : Instance) (k : FaultKind) : Instance := { x with faults := x.faults.add k }

/-- `raise Fault(k)` where a condition holds. -/
def Instance.raiseIf (x : Instance) (b : Bool) (k : FaultKind) : Instance := if b then x.raise k else x

/-- A read completes (R78): the selected instance becomes and the bus gets what `f` makes of it and of one fresh draw
(R10). -/
def State.completeRead (s : State) (f : Instance → Word → Instance × Word) : Result :=
  match s.insts[s.sel]? with
  | none => .refused .noSuchInstance
  | some x =>
    .next { s with
      insts := s.insts.set s.sel (f x (Config.draw32 s.draws)).1
      rdata := some (f x (Config.draw32 s.draws)).2
      draws := s.draws + 1 }

/-- A write completes (R78): the selected instance becomes what `f` makes of it, and the bus gets no data. -/
def State.completeWrite (s : State) (f : Instance → Instance) : Result :=
  match s.insts[s.sel]? with
  | none => .refused .noSuchInstance
  | some x => .next { s with insts := s.insts.set s.sel (f x), rdata := none }

/-- GenRead(R) (R74): the defined bits are the register's, the reserved bits a draw. -/
def genRead (r : RegName) (s : State) : Result :=
  s.completeRead fun x d => (x, (x.placed r &&& defmask r) ||| (d &&& ~~~(defmask r)))

/-- GenWrite(R) (R75): a 1 in a reserved bit raises F_RESERVED_WRITE, and the defined bits are stored in any case. -/
def genWrite (r : RegName) (w : Word) (s : State) : Result :=
  s.completeWrite fun x => (x.raiseIf (reservedSet r w) .reservedWrite).store r (w &&& defmask r)

/-- A write to a view of CON (R79, R80): as a generic write, but what changes is CON. -/
def conWrite (r : RegName) (f : Word → Con → Con) (w : Word) (s : State) : Result :=
  s.completeWrite fun x => { x.raiseIf (reservedSet r w) .reservedWrite with con := f w x.con }

/-- The read of a write-only register (R81, R82): a draw and F_WRITEONLY_READ. -/
def writeOnlyRead (s : State) : Result :=
  s.completeRead fun x d => (x.raise .writeOnlyRead, d)

/-- The write of a read-only register (R84, R88): F_READONLY_WRITE and nothing else. -/
def readOnlyWrite (s : State) : Result :=
  s.completeWrite fun x => x.raise .readOnlyWrite

/-- A read that a check of the port rejects (R69, R70, R71): the check's fault and a draw. -/
def rejectedRead (k : FaultKind) (s : State) : Result :=
  s.completeRead fun x d => (x.raise k, d)

/-- A write that a check of the port rejects (R69, R70, R71): the check's fault and nothing else. -/
def rejectedWrite (k : FaultKind) (s : State) : Result :=
  s.completeWrite fun x => x.raise k

end Sys2Proof.Machine
end

