-- ==== Sys2Proof/Machine/AddressMask.lean ====
section
/-! DEFINITION. The address and mask families ADR0..3 and MASK0..3 (43_address_mask.md, R89 to R105). -/

namespace Sys2Proof.Machine

/-- RD ADR0 (R90). -/
def execRdAdr0 (s : State) : Result := genRead .adr0 s

/-- WR ADR0 (R91). -/
def execWrAdr0 (w : Word) (s : State) : Result := genWrite .adr0 w s

/-- RD ADR1 (R92). -/
def execRdAdr1 (s : State) : Result := genRead .adr1 s

/-- WR ADR1 (R93). -/
def execWrAdr1 (w : Word) (s : State) : Result := genWrite .adr1 w s

/-- RD ADR2 (R94). -/
def execRdAdr2 (s : State) : Result := genRead .adr2 s

/-- WR ADR2 (R95). -/
def execWrAdr2 (w : Word) (s : State) : Result := genWrite .adr2 w s

/-- RD ADR3 (R96). -/
def execRdAdr3 (s : State) : Result := genRead .adr3 s

/-- WR ADR3 (R97). -/
def execWrAdr3 (w : Word) (s : State) : Result := genWrite .adr3 w s

/-- RD MASK0 (R98). -/
def execRdMask0 (s : State) : Result := genRead .mask0 s

/-- WR MASK0 (R99). -/
def execWrMask0 (w : Word) (s : State) : Result := genWrite .mask0 w s

/-- RD MASK1 (R100). -/
def execRdMask1 (s : State) : Result := genRead .mask1 s

/-- WR MASK1 (R101). -/
def execWrMask1 (w : Word) (s : State) : Result := genWrite .mask1 w s

/-- RD MASK2 (R102). -/
def execRdMask2 (s : State) : Result := genRead .mask2 s

/-- WR MASK2 (R103). -/
def execWrMask2 (w : Word) (s : State) : Result := genWrite .mask2 w s

/-- RD MASK3 (R104). -/
def execRdMask3 (s : State) : Result := genRead .mask3 s

/-- WR MASK3 (R105). -/
def execWrMask3 (w : Word) (s : State) : Result := genWrite .mask3 w s

end Sys2Proof.Machine
end

