-- ==== Sys2Proof/Machine/ClockMonitor.lean ====
section
/-! DEFINITION. The clock counts SCLH and SCLL and the monitor control MMCTRL (44_clock_monitor.md, R106 to R111). -/

namespace Sys2Proof.Machine

/-- RD SCLH (R106). -/
def execRdSclh (s : State) : Result := genRead .sclh s

/-- WR SCLH (R107). -/
def execWrSclh (w : Word) (s : State) : Result := genWrite .sclh w s

/-- RD SCLL (R108). -/
def execRdScll (s : State) : Result := genRead .scll s

/-- WR SCLL (R109). -/
def execWrScll (w : Word) (s : State) : Result := genWrite .scll w s

/-- RD MMCTRL (R110). -/
def execRdMmctrl (s : State) : Result := genRead .mmctrl s

/-- WR MMCTRL (R111). -/
def execWrMmctrl (w : Word) (s : State) : Result := genWrite .mmctrl w s

end Sys2Proof.Machine
end

