-- ==== Sys2Proof/Machine/Control.lean ====
section
/-! DEFINITION. The control registers CONSET and CONCLR (41_control.md, R79 to R82). -/

namespace Sys2Proof.Machine

/-- WR CONSET (R79). -/
def execWrConset (w : Word) (s : State) : Result := conWrite .conset Con.setBy w s

/-- WR CONCLR (R80). -/
def execWrConclr (w : Word) (s : State) : Result := conWrite .conclr Con.clearBy w s

/-- RD CONSET (R81). -/
def execRdConset (s : State) : Result := writeOnlyRead s

/-- RD CONCLR (R82). -/
def execRdConclr (s : State) : Result := writeOnlyRead s

end Sys2Proof.Machine
end

