-- ==== Sys2Proof/Machine/StatusData.lean ====
section
/-! DEFINITION. The status and data registers STAT, DAT and DATABUF (42_status_data.md, R83 to R88). -/

namespace Sys2Proof.Machine

/-- RD STAT (R83). -/
def execRdStat (s : State) : Result := genRead .stat s

/-- WR STAT (R84). -/
def execWrStat (_w : Word) (s : State) : Result := readOnlyWrite s

/-- RD DAT (R85). -/
def execRdDat (s : State) : Result := genRead .dat s

/-- WR DAT (R86). -/
def execWrDat (w : Word) (s : State) : Result := genWrite .dat w s

/-- RD DATABUF (R87). -/
def execRdDatabuf (s : State) : Result := genRead .databuf s

/-- WR DATABUF (R88). -/
def execWrDatabuf (_w : Word) (s : State) : Result := readOnlyWrite s

end Sys2Proof.Machine
end

