-- ==== Sys2Proof/Machine/Dispatch.lean ====
section
/-! DEFINITION. The dispatch: one arm per instruction, the read multiplexer of R76 and the write routing of R77. -/

namespace Sys2Proof.Machine

def exec (i : Instr) (s : State) : Host.Outcome State Fault Refusal :=
  match i with
  | .rdConset => Sys2Proof.Machine.execRdConset s
  | .rdStat => Sys2Proof.Machine.execRdStat s
  | .rdDat => Sys2Proof.Machine.execRdDat s
  | .rdAdr0 => Sys2Proof.Machine.execRdAdr0 s
  | .rdSclh => Sys2Proof.Machine.execRdSclh s
  | .rdScll => Sys2Proof.Machine.execRdScll s
  | .rdConclr => Sys2Proof.Machine.execRdConclr s
  | .rdMmctrl => Sys2Proof.Machine.execRdMmctrl s
  | .rdAdr1 => Sys2Proof.Machine.execRdAdr1 s
  | .rdAdr2 => Sys2Proof.Machine.execRdAdr2 s
  | .rdAdr3 => Sys2Proof.Machine.execRdAdr3 s
  | .rdDatabuf => Sys2Proof.Machine.execRdDatabuf s
  | .rdMask0 => Sys2Proof.Machine.execRdMask0 s
  | .rdMask1 => Sys2Proof.Machine.execRdMask1 s
  | .rdMask2 => Sys2Proof.Machine.execRdMask2 s
  | .rdMask3 => Sys2Proof.Machine.execRdMask3 s
  | .wrConset wdata => Sys2Proof.Machine.execWrConset wdata s
  | .wrStat wdata => Sys2Proof.Machine.execWrStat wdata s
  | .wrDat wdata => Sys2Proof.Machine.execWrDat wdata s
  | .wrAdr0 wdata => Sys2Proof.Machine.execWrAdr0 wdata s
  | .wrSclh wdata => Sys2Proof.Machine.execWrSclh wdata s
  | .wrScll wdata => Sys2Proof.Machine.execWrScll wdata s
  | .wrConclr wdata => Sys2Proof.Machine.execWrConclr wdata s
  | .wrMmctrl wdata => Sys2Proof.Machine.execWrMmctrl wdata s
  | .wrAdr1 wdata => Sys2Proof.Machine.execWrAdr1 wdata s
  | .wrAdr2 wdata => Sys2Proof.Machine.execWrAdr2 wdata s
  | .wrAdr3 wdata => Sys2Proof.Machine.execWrAdr3 wdata s
  | .wrDatabuf wdata => Sys2Proof.Machine.execWrDatabuf wdata s
  | .wrMask0 wdata => Sys2Proof.Machine.execWrMask0 wdata s
  | .wrMask1 wdata => Sys2Proof.Machine.execWrMask1 wdata s
  | .wrMask2 wdata => Sys2Proof.Machine.execWrMask2 wdata s
  | .wrMask3 wdata => Sys2Proof.Machine.execWrMask3 wdata s

end Sys2Proof.Machine
end

