-- ==== Sys2Proof/Machine/Engine.lean ====
section
/-! DEFINITION. The interface to the protocol engine (45_engine_interface.md): the outputs of the block (R112, R113)
and the engine's events (R114 to R122). -/

namespace Sys2Proof.Machine

/-- What the block presents to the engine, and the interrupt request (R112, R113). -/
structure Outputs where
  conAa : Bool
  conSi : Bool
  conSto : Bool
  conSta : Bool
  conEn : Bool
  dat : BitVec 8
  adr : Vector (BitVec 8) 4
  mask : Vector (BitVec 7) 4
  sclh : BitVec 16
  scll : BitVec 16
  mmEna : Bool
  enaScl : Bool
  matchAll : Bool
  irq : Bool
  deriving DecidableEq, Repr

/-- The outputs, a function of the current state with no delay (R112, R113). -/
def Instance.outputs (x : Instance) : Outputs :=
  { conAa := x.con.aa, conSi := x.con.si, conSto := x.con.sto, conSta := x.con.sta, conEn := x.con.i2cen
    dat := x.dat
    adr := #v[x.adr0, x.adr1, x.adr2, x.adr3]
    mask := #v[x.mask0, x.mask1, x.mask2, x.mask3]
    sclh := x.sclh, scll := x.scll
    mmEna := x.mmctrl.getLsbD 0, enaScl := x.mmctrl.getLsbD 1, matchAll := x.mmctrl.getLsbD 2
    irq := x.irq }

/-- What an event does to an instance (R116 to R121). -/
def applyEvent (e : EngineEvent) (x : Instance) : Instance :=
  match e with
  | .setSI => { x with con := { x.con with si := true } }
  | .clearSTA => { x with con := { x.con with sta := false } }
  | .clearSTO => { x with con := { x.con with sto := false } }
  | .setStat c => { x with statc := c }
  | .loadDAT b => { x with dat := b }
  | .loadDATABUF b => { x with databuf := b }

/-- May an engine event occur now? With `ENGINE_GATED_BY_EN`, only while CON.I2CEN = 1 (R122). -/
def Instance.engineMayAct (x : Instance) : Bool := !x.params.engineGated || x.con.i2cen

/-- One engine event of instance `n`, one atomic step (R115): it raises no fault and gives no bus data. Where R122 says
the event may not occur, it does not: nothing changes (log entry 9). -/
def engineStep (n : Nat) (e : EngineEvent) (s : State) : Result :=
  match s.insts[n]? with
  | none => .refused .noSuchInstance
  | some x =>
    .next { s with
      insts := if x.engineMayAct then s.insts.set n (applyEvent e x) else s.insts
      rdata := none }

end Sys2Proof.Machine
end

