-- ==== Sys2Proof/Machine/ResetEvent.lean ====
section
/-! DEFINITION. The RESET event (R147, R148). -/

namespace Sys2Proof.Machine

/-- RESET of instance `n`, one atomic step (R147): CON = 0, STATC and every storage register a fresh draw, FAULTS
unchanged (R148). The other instances are not touched (R12, R144). -/
def resetStep (n : Nat) (s : State) : Result :=
  match s.insts[n]? with
  | none => .refused .noSuchInstance
  | some x =>
    .next { s with
      insts := s.insts.set n (Instance.atReset x.params s.draws x.faults)
      rdata := none
      draws := s.draws + resetDraws }

end Sys2Proof.Machine
end

