-- ==== Sys2Proof/Machine/Port.lean ====
section
/-! DEFINITION. The port: what one bus access does, stage by stage (R67 to R73), and how an access word is placed
where the next step finds it. -/

namespace Sys2Proof.Machine

/-- The first instance of a list whose region covers an address, with its number, counting from `n` (R68). The regions
are disjoint (R41), so there is at most one. -/
def findRegion (addr : Word) : List Instance → Nat → Option (Nat × Instance)
  | [], _ => none
  | x :: xs, n => if x.covers addr then some (n, x) else findRegion addr xs (n + 1)

/-- The checks of R69, R70 and R71, in the order of R73: the first that fails gives the access its one fault kind. -/
def portCheck (size off : Nat) : Option FaultKind :=
  if size ≠ 4 then some .size
  else if off % 4 ≠ 0 then some .misaligned
  else if 0x40 ≤ off then some .unmapped
  else none

/-- The bytes of an access that passed the checks: AW formed from its parts, then WDATA if it is a write (R54). -/
def accessBytes (size off : Nat) : AccessKind → List Byte
  | .write w => bytesOfAw (formAccessWord size true off) ++ bytesOfWord w
  | .read => bytesOfAw (formAccessWord size false off)
  | .fetch => []

/-- Select and route (R72, R76, R77): decode the access's bytes and run the instruction they stand for. -/
def runAccess (bytes : List Byte) (s : State) : Result :=
  match decode bytes with
  | .ok (i, _) => exec i s
  | .error _ => .refused .undecodable

/-- The stages of R67 after the region check, on the selected instance. A fetch is refused before the checks (R52, log
entry 8). -/
def performAccess (kind : AccessKind) (size off : Nat) (s : State) : Result :=
  match kind, portCheck size off with
  | .fetch, _ => .refused .instructionFetch
  | .read, some k => rejectedRead k s
  | .write _, some k => rejectedWrite k s
  | k, none => runAccess (accessBytes size off k) s

/-- One bus access (R67). Outside every region it is no instance's step (R68, log entry 6). A second bus agent is refused
(R49), and so is an instruction fetch (R52). -/
def accessStep (a : BusAccess) (s : State) : Result :=
  match findRegion a.addr s.insts 0 with
  | none => .next { s with rdata := none }
  | some (n, x) =>
    if a.agent ≠ x.params.owner then .refused .secondBusAgent
    else performAccess a.kind a.size (offsetOf x.params a.addr) { s with sel := n }

/-- What one input does (R30). -/
def performInput (i : Input) (s : State) : Result :=
  match i with
  | .access a => accessStep a s
  | .engine n e => engineStep n e s
  | .reset n => resetStep n s

/-- A size that SZ stands for (R55); for `11`, "any other size", 8 (DESIGN CHOICE, log entry 5). -/
def sizeOfCode (sz : BitVec 2) : Nat :=
  if sz = 0b00#2 then 1 else if sz = 0b01#2 then 2 else if sz = 0b10#2 then 4 else 8

/-- The bus access whose access word is `aw` and whose write data is `w`, to the instance placed at `p`. -/
def accessOfWord (p : Params) (aw : BitVec 9) (w : Word) : BusAccess :=
  { agent := p.owner
    kind := if awWrite aw then .write w else .read
    addr := p.base + (awOff aw).setWidth 32
    size := sizeOfCode (awSize aw) }

/-- Place the access of a table word at the head of the inputs, addressed to the selected instance: AW in bits 8 to 0,
WDATA in bits 47 to 16. Where bits 15 to 9 are not 0 the word is no access word, and nothing is placed. -/
def placeTableWord (s : State) (nbits w : Nat) : State :=
  match s.insts[s.sel]? with
  | none => s
  | some x =>
    if w % 2 ^ nbits / 2 ^ 9 % 2 ^ 7 ≠ 0 then s
    else { s with
      inputs := .access (accessOfWord x.params (BitVec.ofNat 9 (w % 2 ^ nbits))
        (BitVec.ofNat 32 (w % 2 ^ nbits / 2 ^ 16))) :: s.inputs }

end Sys2Proof.Machine
end

