-- ==== Sys2Proof/Machine/Step.lean ====
section
/-! DEFINITION. One step: the next input is taken and performed (R30, R50). -/

namespace Sys2Proof.Machine

/-- One step of the machine. The next input is taken from the list and performed, one a step, each exactly once (R50).
Where nothing arrives, nothing changes (R30, R146; log entry 11). -/
def step (s : State) : Host.Outcome State Fault Refusal :=
  match s.inputs with
  | [] => .next s
  | i :: rest => performInput i { s with inputs := rest }

/-- `s` with the access of a table word as its next input: the bus master's placing of one access (log entry 1). -/
def State.withFetchWord (s : State) (nbits w : Nat) : State := placeTableWord s nbits w

end Sys2Proof.Machine
end

