-- ==== Sys2Proof/Machine/Fields.lean ====
section
/-! DEFINITION. The source's pure addressing and encoding functions (46_field_access.md, R124 to R133), and the family
offsets (R89). They compute addresses and words and make no access. -/

namespace Sys2Proof.Machine

/-- The boundary errors of R133: a call that fails makes no access and changes no state. -/
inductive SoftwareError where
  /-- An unknown register, field or bit name, or one that does not apply (R126, R130, R131, C4). -/
  | invalidRegister
  /-- A family index outside 0..3 (R127). -/
  | indexOutOfRange
  /-- A field value of 2^width or more (R129). -/
  | valueOutOfRange
  deriving DecidableEq, Repr

/-- A field descriptor (R8). -/
structure FieldDesc where
  reg : RegName
  low : Nat
  width : Nat
  deriving DecidableEq, Repr

/-- The field names of R124. -/
inductive FieldName where
  | aa | si | sto | sta | i2cen | status | data | gc | addr | mask | sclh | scll | mmEna | enaScl | matchAll
  deriving DecidableEq, Repr

/-- All field names of R124. -/
def FieldName.all : List FieldName :=
  [.aa, .si, .sto, .sta, .i2cen, .status, .data, .gc, .addr, .mask, .sclh, .scll, .mmEna, .enaScl, .matchAll]

/-- The bounds R8 puts on a descriptor. -/
def FieldDesc.wf (f : FieldDesc) : Bool := decide (f.low + f.width ≤ 32)

/-- `mask = ((1 << width) - 1) << low` (R8). -/
def FieldDesc.mask (f : FieldDesc) : Word := ((1#32 <<< f.width) - 1#32) <<< f.low

/-- `high = low + width - 1`, the place of the field's top bit (R8). Every field of R124 has at least one bit. -/
def FieldDesc.high (f : FieldDesc) : Nat := f.low + f.width - 1

/-- The descriptor of a register's field (R124); none where the register has no such field. -/
def fieldOf (r : RegName) (f : FieldName) : Option FieldDesc :=
  match r, f with
  | .conset, .aa => some ⟨r, 2, 1⟩
  | .conset, .si => some ⟨r, 3, 1⟩
  | .conset, .sto => some ⟨r, 4, 1⟩
  | .conset, .sta => some ⟨r, 5, 1⟩
  | .conset, .i2cen => some ⟨r, 6, 1⟩
  | .conclr, .aa => some ⟨r, 2, 1⟩
  | .conclr, .si => some ⟨r, 3, 1⟩
  | .conclr, .sta => some ⟨r, 5, 1⟩
  | .conclr, .i2cen => some ⟨r, 6, 1⟩
  | .stat, .status => some ⟨r, 3, 5⟩
  | .dat, .data => some ⟨r, 0, 8⟩
  | .adr0, .gc => some ⟨r, 0, 1⟩
  | .adr1, .gc => some ⟨r, 0, 1⟩
  | .adr2, .gc => some ⟨r, 0, 1⟩
  | .adr3, .gc => some ⟨r, 0, 1⟩
  | .adr0, .addr => some ⟨r, 1, 7⟩
  | .adr1, .addr => some ⟨r, 1, 7⟩
  | .adr2, .addr => some ⟨r, 1, 7⟩
  | .adr3, .addr => some ⟨r, 1, 7⟩
  | .mask0, .mask => some ⟨r, 1, 7⟩
  | .mask1, .mask => some ⟨r, 1, 7⟩
  | .mask2, .mask => some ⟨r, 1, 7⟩
  | .mask3, .mask => some ⟨r, 1, 7⟩
  | .sclh, .sclh => some ⟨r, 0, 16⟩
  | .scll, .scll => some ⟨r, 0, 16⟩
  | .mmctrl, .mmEna => some ⟨r, 0, 1⟩
  | .mmctrl, .enaScl => some ⟨r, 1, 1⟩
  | .mmctrl, .matchAll => some ⟨r, 2, 1⟩
  | .databuf, .data => some ⟨r, 0, 8⟩
  | _, _ => none

/-- `field_get`: `(register_value & mask) >> shift`, total (R128). -/
def fieldGet (v : Word) (f : FieldDesc) : Word := (v &&& f.mask) >>> f.low

/-- `field_set`: replace the field, keep every other bit; fail where the value needs more than the field's width (R129,
C3). -/
def fieldSet (v : Word) (f : FieldDesc) (value : Nat) : Except SoftwareError Word :=
  if 2 ^ f.width ≤ value then .error .valueOutOfRange
  else .ok ((v &&& ~~~f.mask) ||| ((BitVec.ofNat 32 value <<< f.low) &&& f.mask))

/-- A register by its name (R58). -/
def regOfString (name : String) : Option RegName :=
  if name = "CONSET" then some .conset
  else if name = "STAT" then some .stat
  else if name = "DAT" then some .dat
  else if name = "ADR0" then some .adr0
  else if name = "SCLH" then some .sclh
  else if name = "SCLL" then some .scll
  else if name = "CONCLR" then some .conclr
  else if name = "MMCTRL" then some .mmctrl
  else if name = "ADR1" then some .adr1
  else if name = "ADR2" then some .adr2
  else if name = "ADR3" then some .adr3
  else if name = "DATABUF" then some .databuf
  else if name = "MASK0" then some .mask0
  else if name = "MASK1" then some .mask1
  else if name = "MASK2" then some .mask2
  else if name = "MASK3" then some .mask3
  else none

/-- A field by its name (R124). -/
def fieldOfString (name : String) : Option FieldName :=
  if name = "AA" then some .aa
  else if name = "SI" then some .si
  else if name = "STO" then some .sto
  else if name = "STA" then some .sta
  else if name = "I2CEN" then some .i2cen
  else if name = "STATUS" then some .status
  else if name = "DATA" then some .data
  else if name = "GC" then some .gc
  else if name = "ADDR" then some .addr
  else if name = "MASK" then some .mask
  else if name = "SCLH" then some .sclh
  else if name = "SCLL" then some .scll
  else if name = "MM_ENA" then some .mmEna
  else if name = "ENA_SCL" then some .enaScl
  else if name = "MATCH_ALL" then some .matchAll
  else none

/-- `register_address(base, name)`: `base + offset(name)` for the 16 names, InvalidRegister for any other (R126). -/
def registerAddress (base : Word) (name : String) : Except SoftwareError Word :=
  match regOfString name with
  | some r => .ok (registerWordAddress base r)
  | none => .error .invalidRegister

/-- The member `n` of the ADR family, by the table of R89 and not by a stride (C1). -/
def adrMember (n : Int) : Option RegName :=
  if n = 0 then some .adr0 else if n = 1 then some .adr1 else if n = 2 then some .adr2
  else if n = 3 then some .adr3 else none

/-- The member `n` of the MASK family (R89). -/
def maskMember (n : Int) : Option RegName :=
  if n = 0 then some .mask0 else if n = 1 then some .mask1 else if n = 2 then some .mask2
  else if n = 3 then some .mask3 else none

/-- `register_address(base, ADR, n)` (R127). -/
def adrAddress (base : Word) (n : Int) : Except SoftwareError Word :=
  match adrMember n with
  | some r => .ok (registerWordAddress base r)
  | none => .error .indexOutOfRange

/-- `register_address(base, MASK, n)` (R127). -/
def maskAddress (base : Word) (n : Int) : Except SoftwareError Word :=
  match maskMember n with
  | some r => .ok (registerWordAddress base r)
  | none => .error .indexOutOfRange

/-- The word with a 1 at the position of the bit that a CON view calls `bit`: `1 << pos(bit)`; InvalidRegister where the
view has no such bit (R124, R130, R131). -/
def requestWord (r : RegName) (bit : String) : Except SoftwareError Word :=
  match fieldOfString bit with
  | none => .error .invalidRegister
  | some f =>
    match fieldOf r f with
    | none => .error .invalidRegister
    | some d => .ok (1#32 <<< d.low)

/-- `request_set(bit)`: WDATA of a CONSET write (R130). -/
def requestSet (bit : String) : Except SoftwareError Word := requestWord .conset bit

/-- `request_clear(bit)`: WDATA of a CONCLR write (R131); STO is no bit of CONCLR (D34). -/
def requestClear (bit : String) : Except SoftwareError Word := requestWord .conclr bit

end Sys2Proof.Machine
end

