-- ==== Sys2Proof/Machine/Assembler.lean ====
section
/-! DEFINITION. The operations of the textual syntax (R64 to R66) as data, and the accesses and events each stands for.
The syntax has no semantics of its own (D30): an operation IS the inputs it expands to. -/

namespace Sys2Proof.Machine

/-- A register operand: one of the 16 names, or an indexed family member `ADR[n]`, `MASK[n]` (R64). -/
inductive RegOperand where
  | name (n : String)
  | adr (n : Int)
  | mask (n : Int)
  deriving DecidableEq, Repr

/-- One line of the syntax (R64, R65, R66). -/
inductive AsmOp where
  | rd (r : RegOperand)
  | wr (r : RegOperand) (imm : Word)
  | set (bits : List String)
  | clr (bits : List String)
  | fwr (r : RegOperand) (field : String) (v : Nat)
  | frd (r : RegOperand) (field : String)
  | eng (e : EngineEvent)
  | reset
  deriving DecidableEq, Repr

/-- The register an operand names (R64, R126, R127). -/
def resolveOperand : RegOperand → Except SoftwareError RegName
  | .name n => match regOfString n with
    | some r => .ok r
    | none => .error .invalidRegister
  | .adr n => match adrMember n with
    | some r => .ok r
    | none => .error .indexOutOfRange
  | .mask n => match maskMember n with
    | some r => .ok r
    | none => .error .indexOutOfRange

/-- The registers the field pseudo-operations are legal on: the read-write ones (R66). -/
def isReadWrite : RegName → Bool
  | .conset | .conclr | .stat | .databuf => false
  | .dat | .adr0 | .adr1 | .adr2 | .adr3 | .mask0 | .mask1 | .mask2 | .mask3 | .sclh | .scll | .mmctrl => true

/-- The read access of a register, by the instance's own bus agent. -/
def readAccess (p : Params) (r : RegName) : Input :=
  .access { agent := p.owner, kind := .read, addr := registerWordAddress p.base r, size := 4 }

/-- The write access of a register, by the instance's own bus agent. -/
def writeAccess (p : Params) (r : RegName) (w : Word) : Input :=
  .access { agent := p.owner, kind := .write w, addr := registerWordAddress p.base r, size := 4 }

/-- The descriptor an operand and a field name give, for the field pseudo-operations (R66). -/
def rwField (r : RegOperand) (field : String) : Except SoftwareError FieldDesc :=
  match resolveOperand r with
  | .error e => .error e
  | .ok reg =>
    if !isReadWrite reg then .error .invalidRegister
    else match fieldOfString field with
      | none => .error .invalidRegister
      | some f => match fieldOf reg f with
        | none => .error .invalidRegister
        | some d => .ok d

/-- The OR of the requests of several bits: one write (R65). For no bit at all, which the syntax of R65 does not write, it
is 0 (DESIGN CHOICE, log entry 22). -/
def requestUnion (r : RegName) : List String → Except SoftwareError Word
  | [] => .ok 0#32
  | b :: bs =>
    match requestWord r b, requestUnion r bs with
    | .ok w, .ok ws => .ok (w ||| ws)
    | .error e, _ => .error e
    | _, .error e => .error e

/-- WDATA of FWR's write: `field_set(r & defmask(reg), field, v)`, `r` the value its read returned (R66). -/
def fwrWord (d : FieldDesc) (r : Word) (v : Nat) : Except SoftwareError Word := fieldSet (r &&& defmask d.reg) d v

/-- The inputs an operation of instance `n` stands for (R64 to R66). `seen` is the value FWR's read returned: FWR's
write depends on it, so the bus agent forms it after the read (log entry 16). No other operation uses it. -/
def expandOp (n : Nat) (p : Params) (seen : Word) : AsmOp → Except SoftwareError (List Input)
  | .rd r => match resolveOperand r with
    | .ok reg => .ok [readAccess p reg]
    | .error e => .error e
  | .wr r imm => match resolveOperand r with
    | .ok reg => .ok [writeAccess p reg imm]
    | .error e => .error e
  | .set bits => match requestUnion .conset bits with
    | .ok w => .ok [writeAccess p .conset w]
    | .error e => .error e
  | .clr bits => match requestUnion .conclr bits with
    | .ok w => .ok [writeAccess p .conclr w]
    | .error e => .error e
  | .fwr r field v => match rwField r field with
    | .error e => .error e
    | .ok d => match fwrWord d seen v with
      | .ok w => .ok [readAccess p d.reg, writeAccess p d.reg w]
      | .error e => .error e
  | .frd r field => match rwField r field with
    | .ok d => .ok [readAccess p d.reg]
    | .error e => .error e
  | .eng e => .ok [.engine n e]
  | .reset => .ok [.reset n]

/-- The value FRD gives: `field_get` of what its read returned (R66). -/
def frdValue (r : RegOperand) (field : String) (seen : Word) : Except SoftwareError Word :=
  match rwField r field with
  | .ok d => .ok (fieldGet seen d)
  | .error e => .error e

end Sys2Proof.Machine
end

