-- ==== Sys2Proof/Safety.lean ====
section
/-! DEFINITION. What counts as a good state (R11), which accesses keep the usage contract (R134), and the invariant of
the platform (R41, D4). -/

namespace Sys2Proof.Machine

/-- A good state: no instance has recorded a fault (R11: a state whose fault set is non-empty is never a good final
state). -/
def State.good (s : State) : Bool := s.insts.all fun x => x.faults == FaultSet.empty

/-- The usage contract of an access that decodes: no read of a write-only register, no write of a read-only one, no 1 in
a reserved bit (R134, codes 4 to 6). -/
def keepsContract (i : Instr) : Bool :=
  match i.reg, i.wdata? with
  | .conset, none => false
  | .conclr, none => false
  | .stat, some _ => false
  | .databuf, some _ => false
  | r, some w => !reservedSet r w
  | _, none => true

/-- The invariant of the platform: the instances are legally placed (R41, D4), and the port's select names one of them. -/
def State.Inv (s : State) : Prop :=
  placementsOk (s.insts.map Instance.params) = true ∧ s.sel < s.insts.length

end Sys2Proof.Machine
end

