-- ==== Sys2Proof/Certificates/Slice0/Obligations.lean ====
section
/-! DEFINITION. The statements for the provers. The predicates before them are abbreviations of what a statement of
many instructions says of each. -/

namespace Sys2Proof.Machine

/-- `i`, whose access word is `aw`, reads: on every state it completes, RDATA is `bits` of the selected instance in the register's defined bits and
a fresh draw in the `reserved` ones, and NOTHING ELSE of the machine changes but the counter of draws. -/
def ReadAnswers (i : Instr) (aw : BitVec 9) (bits : Instance → Word) (reserved : Word) : Prop :=
  (∀ w, decodeAccess aw w = .ok i) ∧ ∀ (s : State) (x : Instance), s.insts[s.sel]? = some x →
    exec i s = .next { s with
      rdata := some (bits x ||| (Config.draw32 s.draws &&& reserved)), draws := s.draws + 1 }

/-- `i`, whose access word is `aw`, writes: for every WDATA and on every state it completes, the selected instance becomes `upd` of it, with
F_RESERVED_WRITE recorded exactly if WDATA has a 1 in `reserved`, and nothing else of the machine changes (no RDATA is
returned). -/
def WriteAnswers (i : Word → Instr) (aw : BitVec 9) (reserved : Word) (upd : Word → Instance → Instance) : Prop :=
  (∀ w, decodeAccess aw w = .ok (i w)) ∧ ∀ (s : State) (x : Instance) (w : Word), s.insts[s.sel]? = some x →
    exec (i w) s = .next { s with
      insts := s.insts.set s.sel { upd w x with
        faults := if w &&& reserved = 0#32 then x.faults else x.faults.add .reservedWrite }
      rdata := none }

/-- Access `a` is the next input, it is issued by the one bus agent of instance `n`, and it lies in that instance's
region (R68), on a legal platform. -/
def Arrives (s : State) (a : BusAccess) (rest : List Input) (n : Nat) (x : Instance) : Prop :=
  s.Inv ∧ s.inputs = .access a :: rest ∧ s.insts[n]? = some x ∧ a.agent = x.params.owner ∧
    x.params.base.toNat ≤ a.addr.toNat ∧ a.addr.toNat < x.params.base.toNat + x.params.regionSize

/-- `off = addr - BASE` as a number (R68). -/
def offIn (x : Instance) (a : BusAccess) : Nat := a.addr.toNat - x.params.base.toNat

/-- The port rejects the access with fault kind `k`: a read returns a draw, the kind is recorded in that instance, and
nothing else changes. -/
def RejectedWith (k : FaultKind) (s : State) (a : BusAccess) (rest : List Input) (n : Nat) (x : Instance) : Prop :=
  (a.kind = .read → step s = .next { s with
      insts := s.insts.set n { x with faults := x.faults.add k }
      sel := n, inputs := rest, rdata := some (Config.draw32 s.draws), draws := s.draws + 1 }) ∧
  (∀ w, a.kind = .write w → step s = .next { s with
      insts := s.insts.set n { x with faults := x.faults.add k }
      sel := n, inputs := rest, rdata := none })

/-- Every register whose reset value is a draw holds one, all of different numbers (R35, R36). -/
def HoldsResetDraws (x : Instance) (n : Nat) : Prop :=
  x.statc = (Config.draw32 n).setWidth 5 ∧ x.dat = (Config.draw32 (n + 1)).setWidth 8 ∧
  x.adr0 = (Config.draw32 (n + 2)).setWidth 8 ∧ x.adr1 = (Config.draw32 (n + 3)).setWidth 8 ∧
  x.adr2 = (Config.draw32 (n + 4)).setWidth 8 ∧ x.adr3 = (Config.draw32 (n + 5)).setWidth 8 ∧
  x.mask0 = (Config.draw32 (n + 6)).setWidth 7 ∧ x.mask1 = (Config.draw32 (n + 7)).setWidth 7 ∧
  x.mask2 = (Config.draw32 (n + 8)).setWidth 7 ∧ x.mask3 = (Config.draw32 (n + 9)).setWidth 7 ∧
  x.sclh = (Config.draw32 (n + 10)).setWidth 16 ∧ x.scll = (Config.draw32 (n + 11)).setWidth 16 ∧
  x.mmctrl = (Config.draw32 (n + 12)).setWidth 3 ∧ x.databuf = (Config.draw32 (n + 13)).setWidth 8

/-- Is an input for instance `m`, as R68, R114 and R147 say: whose region holds the access's address,
whose engine acts, which one is reset. -/
def Input.isFor (i : Input) (m : Nat) (x : Instance) : Prop :=
  match i with
  | .access a => x.params.base.toNat ≤ a.addr.toNat ∧ a.addr.toNat < x.params.base.toNat + x.params.regionSize
  | .engine n _ => n = m
  | .reset n => n = m

/-- The register has the field, with the bits, the top bit and the mask that the table of R124 gives it. -/
def HasField (r : RegName) (name : FieldName) (low width high : Nat) (mask : Word) : Prop :=
  ∃ f, fieldOf r name = some f ∧ f.reg = r ∧ f.low = low ∧ f.width = width ∧ f.high = high ∧ f.mask = mask

/-- The 16 register names of R58 as text, each with its offset from BASE. -/
def namedOffsets : List (String × Word) :=
  [("CONSET", 0x00#32), ("STAT", 0x04#32), ("DAT", 0x08#32), ("ADR0", 0x0C#32),
   ("SCLH", 0x10#32), ("SCLL", 0x14#32), ("CONCLR", 0x18#32), ("MMCTRL", 0x1C#32),
   ("ADR1", 0x20#32), ("ADR2", 0x24#32), ("ADR3", 0x28#32), ("DATABUF", 0x2C#32),
   ("MASK0", 0x30#32), ("MASK1", 0x34#32), ("MASK2", 0x38#32), ("MASK3", 0x3C#32)]

end Sys2Proof.Machine

open Sys2Proof Sys2Proof.Machine

/-! Reset. -/

/-- R34 (decision D19 of the spec): after reset CON = 0 in every instance, of State.reset and after a RESET event. -/
def Obligations.ResetClearsEveryControlBit : Prop :=
  (∀ x ∈ State.reset.insts, x.con.aa = false ∧ x.con.si = false ∧ x.con.sto = false ∧ x.con.sta = false ∧
      x.con.i2cen = false) ∧
  (∀ (s t : State) (n : Nat) (rest : List Input) (y : Instance), s.inputs = .reset n :: rest → step s = .next t →
      t.insts[n]? = some y → y.con.aa = false ∧ y.con.si = false ∧ y.con.sto = false ∧ y.con.sta = false ∧
      y.con.i2cen = false)

/-- R37: FAULTS is empty at the start of a run, and a RESET event keeps it. -/
def Obligations.FaultsStartEmptyAndSurviveReset : Prop :=
  (∀ x ∈ State.reset.insts, ∀ k, x.faults.has k = false) ∧
  (∀ (s t : State) (n : Nat) (rest : List Input) (x y : Instance), s.inputs = .reset n :: rest → step s = .next t →
      s.insts[n]? = some x → t.insts[n]? = some y → y.faults = x.faults)

/-- R148, which the spec derives from R34 to R37, and R147: a RESET event completes in one step. It applies the reset
values to its instance (the numbers of the draws are the model's, log entry 2) and leaves the parameters, the other
instances and the inputs after it as they are. -/
def Obligations.ResetEventAppliesResetValues : Prop :=
  ∀ (s : State) (n : Nat) (rest : List Input) (x : Instance),
    s.inputs = .reset n :: rest → s.insts[n]? = some x →
    ∃ y, step s = .next { s with
        insts := s.insts.set n y, inputs := rest, rdata := none, draws := s.draws + 14 } ∧
      y.params = x.params ∧ y.con = ⟨false, false, false, false, false⟩ ∧ y.faults = x.faults ∧ y.irq = false ∧
      HoldsResetDraws y s.draws

/-- R35 and R36 of State.reset: STATC and every storage register hold a draw (which draws they are is the model's choice,
log entry 2). -/
def Obligations.ResetStateHoldsDraws : Prop :=
  ∀ x ∈ State.reset.insts, ∃ n, HoldsResetDraws x n

/-! The reads. -/

/-- R83: RD STAT returns STATC in bits 7:3 and a draw elsewhere, and changes nothing. -/
def Obligations.ReadStatReturnsStatusCode : Prop :=
  ReadAnswers .rdStat 0x104#9 (fun x => x.statc.setWidth 32 <<< 3) 0xFFFFFF07#32

/-- R85, R87: RD DAT and RD DATABUF return the byte and change nothing. -/
def Obligations.ReadDataRegistersReturnTheByte : Prop :=
  ReadAnswers .rdDat 0x108#9 (fun x => x.dat.setWidth 32) 0xFFFFFF00#32 ∧
  ReadAnswers .rdDatabuf 0x12C#9 (fun x => x.databuf.setWidth 32) 0xFFFFFF00#32

/-- R90, R92, R94, R96: RD ADRn returns that member's eight bits and changes nothing. -/
def Obligations.ReadAddressFamilyReturnsItsMember : Prop :=
  ReadAnswers .rdAdr0 0x10C#9 (fun x => x.adr0.setWidth 32) 0xFFFFFF00#32 ∧
  ReadAnswers .rdAdr1 0x120#9 (fun x => x.adr1.setWidth 32) 0xFFFFFF00#32 ∧
  ReadAnswers .rdAdr2 0x124#9 (fun x => x.adr2.setWidth 32) 0xFFFFFF00#32 ∧
  ReadAnswers .rdAdr3 0x128#9 (fun x => x.adr3.setWidth 32) 0xFFFFFF00#32

/-- R98, R100, R102, R104: RD MASKn returns that member's seven bits at 7:1 and changes nothing. -/
def Obligations.ReadMaskFamilyReturnsItsMember : Prop :=
  ReadAnswers .rdMask0 0x130#9 (fun x => x.mask0.setWidth 32 <<< 1) 0xFFFFFF01#32 ∧
  ReadAnswers .rdMask1 0x134#9 (fun x => x.mask1.setWidth 32 <<< 1) 0xFFFFFF01#32 ∧
  ReadAnswers .rdMask2 0x138#9 (fun x => x.mask2.setWidth 32 <<< 1) 0xFFFFFF01#32 ∧
  ReadAnswers .rdMask3 0x13C#9 (fun x => x.mask3.setWidth 32 <<< 1) 0xFFFFFF01#32

/-- R106, R108, R110: RD SCLH, RD SCLL and RD MMCTRL return the stored bits and change nothing. -/
def Obligations.ReadClockAndMonitorReturnStoredBits : Prop :=
  ReadAnswers .rdSclh 0x110#9 (fun x => x.sclh.setWidth 32) 0xFFFF0000#32 ∧
  ReadAnswers .rdScll 0x114#9 (fun x => x.scll.setWidth 32) 0xFFFF0000#32 ∧
  ReadAnswers .rdMmctrl 0x11C#9 (fun x => x.mmctrl.setWidth 32) 0xFFFFFFF8#32

/-- R81, R82 (decision D11 of the spec): a read of CONSET or CONCLR returns a draw, records F_WRITEONLY_READ, and
changes nothing else. -/
def Obligations.ReadOfWriteOnlyRegisterFaults : Prop :=
  (∀ w, decodeAccess 0x100#9 w = .ok .rdConset ∧ decodeAccess 0x118#9 w = .ok .rdConclr) ∧
  ∀ i : Instr, i = .rdConset ∨ i = .rdConclr → ∀ (s : State) (x : Instance), s.insts[s.sel]? = some x →
    exec i s = .next { s with
      insts := s.insts.set s.sel { x with faults := x.faults.add .writeOnlyRead }
      rdata := some (Config.draw32 s.draws), draws := s.draws + 1 }

/-! The writes. -/

/-- R79: WR CONSET sets each CON bit whose position holds 1, clears none, records F_RESERVED_WRITE exactly if bits 0, 1
or 7 to 31 hold a 1, and changes nothing else. In one equation, CONVAL becomes CONVAL or (WDATA and 0x7C). -/
def Obligations.WriteConsetSetsBits : Prop :=
  (∀ w, decodeAccess 0x140#9 w = .ok (.wrConset w)) ∧
  ∀ (s : State) (x : Instance) (w : Word), s.insts[s.sel]? = some x →
    ∃ c : Con, exec (.wrConset w) s = .next { s with
        insts := s.insts.set s.sel { x with
          con := c, faults := if w &&& 0xFFFFFF83#32 = 0#32 then x.faults else x.faults.add .reservedWrite }
        rdata := none } ∧
      c.aa = (w.getLsbD 2 || x.con.aa) ∧ c.si = (w.getLsbD 3 || x.con.si) ∧ c.sto = (w.getLsbD 4 || x.con.sto) ∧
      c.sta = (w.getLsbD 5 || x.con.sta) ∧ c.i2cen = (w.getLsbD 6 || x.con.i2cen) ∧
      c.conval = x.con.conval ||| (w &&& 0x0000007C#32)

/-- R80: WR CONCLR clears AA, SI, STA and I2CEN where their position holds 1, never STO, records F_RESERVED_WRITE exactly
if bits 0, 1, 4 or 7 to 31 hold a 1, and changes nothing else. CONVAL becomes CONVAL and not (WDATA and 0x6C). -/
def Obligations.WriteConclrClearsBits : Prop :=
  (∀ w, decodeAccess 0x158#9 w = .ok (.wrConclr w)) ∧
  ∀ (s : State) (x : Instance) (w : Word), s.insts[s.sel]? = some x →
    ∃ c : Con, exec (.wrConclr w) s = .next { s with
        insts := s.insts.set s.sel { x with
          con := c, faults := if w &&& 0xFFFFFF93#32 = 0#32 then x.faults else x.faults.add .reservedWrite }
        rdata := none } ∧
      c.aa = (!w.getLsbD 2 && x.con.aa) ∧ c.si = (!w.getLsbD 3 && x.con.si) ∧ c.sto = x.con.sto ∧
      c.sta = (!w.getLsbD 5 && x.con.sta) ∧ c.i2cen = (!w.getLsbD 6 && x.con.i2cen) ∧
      c.conval = x.con.conval &&& ~~~(w &&& 0x0000006C#32)

/-- R84, R88 (decisions D12, D13 of the spec): WR STAT and WR DATABUF record F_READONLY_WRITE, whatever the data, and
change nothing else. -/
def Obligations.WriteOfReadOnlyRegisterFaults : Prop :=
  (∀ w, decodeAccess 0x144#9 w = .ok (.wrStat w) ∧ decodeAccess 0x16C#9 w = .ok (.wrDatabuf w)) ∧
  ∀ (i : Instr) (w : Word), i = .wrStat w ∨ i = .wrDatabuf w →
    ∀ (s : State) (x : Instance), s.insts[s.sel]? = some x →
      exec i s = .next { s with
        insts := s.insts.set s.sel { x with faults := x.faults.add .readOnlyWrite }, rdata := none }

/-- R86: WR DAT stores WDATA[7:0] and changes nothing else. -/
def Obligations.WriteDatStoresTheByte : Prop :=
  WriteAnswers .wrDat 0x148#9 0xFFFFFF00#32 (fun w x => { x with dat := w.extractLsb' 0 8 })

/-- R91, R93, R95, R97: WR ADRn stores WDATA[7:0] in that member and changes nothing else. -/
def Obligations.WriteAddressFamilyStoresItsMember : Prop :=
  WriteAnswers .wrAdr0 0x14C#9 0xFFFFFF00#32 (fun w x => { x with adr0 := w.extractLsb' 0 8 }) ∧
  WriteAnswers .wrAdr1 0x160#9 0xFFFFFF00#32 (fun w x => { x with adr1 := w.extractLsb' 0 8 }) ∧
  WriteAnswers .wrAdr2 0x164#9 0xFFFFFF00#32 (fun w x => { x with adr2 := w.extractLsb' 0 8 }) ∧
  WriteAnswers .wrAdr3 0x168#9 0xFFFFFF00#32 (fun w x => { x with adr3 := w.extractLsb' 0 8 })

/-- R99, R101, R103, R105: WR MASKn stores WDATA[7:1] in that member and changes nothing else. -/
def Obligations.WriteMaskFamilyStoresItsMember : Prop :=
  WriteAnswers .wrMask0 0x170#9 0xFFFFFF01#32 (fun w x => { x with mask0 := w.extractLsb' 1 7 }) ∧
  WriteAnswers .wrMask1 0x174#9 0xFFFFFF01#32 (fun w x => { x with mask1 := w.extractLsb' 1 7 }) ∧
  WriteAnswers .wrMask2 0x178#9 0xFFFFFF01#32 (fun w x => { x with mask2 := w.extractLsb' 1 7 }) ∧
  WriteAnswers .wrMask3 0x17C#9 0xFFFFFF01#32 (fun w x => { x with mask3 := w.extractLsb' 1 7 })

/-- R107, R109, R111: WR SCLH and WR SCLL store WDATA[15:0], WR MMCTRL stores WDATA[2:0], and nothing else changes. -/
def Obligations.WriteClockAndMonitorStoreBits : Prop :=
  WriteAnswers .wrSclh 0x150#9 0xFFFF0000#32 (fun w x => { x with sclh := w.extractLsb' 0 16 }) ∧
  WriteAnswers .wrScll 0x154#9 0xFFFF0000#32 (fun w x => { x with scll := w.extractLsb' 0 16 }) ∧
  WriteAnswers .wrMmctrl 0x15C#9 0xFFFFFFF8#32 (fun w x => { x with mmctrl := w.extractLsb' 0 3 })

/-! All instructions. -/

/-- R76, as noninterference: what a read returns depends on the selected register's own bits and the draw, on no other
part of the state. -/
def Obligations.ReadDataDependsOnItsRegisterOnly : Prop :=
  ∀ (i : Instr) (s s' t t' : State) (x x' : Instance), i.wdata? = none →
    s.insts[s.sel]? = some x → s'.insts[s'.sel]? = some x' → x.placed i.reg = x'.placed i.reg → s.draws = s'.draws →
    exec i s = .next t → exec i s' = .next t' → t.rdata.isSome = true ∧ t.rdata = t'.rdata

/-- R77: a write changes the bits of no register but its own. CONSET and CONCLR are two views of CON (R20, R21), so each
may change the other's. -/
def Obligations.WriteRoutesToItsRegisterOnly : Prop :=
  ∀ (i : Instr) (s t : State) (r : RegName) (x y : Instance),
    exec i s = .next t → s.insts[s.sel]? = some x → t.insts[s.sel]? = some y → r ≠ i.reg →
    (i.reg = .conset → r ≠ .conclr) → (i.reg = .conclr → r ≠ .conset) → y.placed r = x.placed r

/-- R11, R134: an access that keeps the usage contract records no fault, and one that breaks it records its own kind:
F_WRITEONLY_READ for a read, F_READONLY_WRITE for a write of STAT or DATABUF, F_RESERVED_WRITE for any other write. -/
def Obligations.FaultRecordedExactlyOnBrokenContract : Prop :=
  ∀ (i : Instr) (s t : State) (x y : Instance),
    exec i s = .next t → s.insts[s.sel]? = some x → t.insts[s.sel]? = some y →
    (keepsContract i = true → y.faults = x.faults) ∧
    (keepsContract i = false → y.faults = x.faults.add
      (if i.wdata? = none then .writeOnlyRead
       else if i.reg = .stat ∨ i.reg = .databuf then .readOnlyWrite
       else .reservedWrite))

/-- R47, which the spec derives: two successive identical writes leave the same state as one. -/
def Obligations.RepeatedWriteLeavesSameState : Prop :=
  ∀ (i : Instr) (s t : State), i.wdata?.isSome = true → exec i s = .next t → exec i t = .next t

/-- R47, which the spec derives: two successive reads of a readable register return equal defined bits. -/
def Obligations.RepeatedReadReturnsSameDefinedBits : Prop :=
  ∀ (i : Instr) (s t u : State) (v v' : Word), i.wdata? = none → i.reg ≠ .conset → i.reg ≠ .conclr →
    exec i s = .next t → exec i t = .next u → t.rdata = some v → u.rdata = some v' →
    v' &&& defmask i.reg = v &&& defmask i.reg

/-- R112: what the block presents to the engine is the current state: the five CON bits, DAT, ADRn, MASKn, SCLH, SCLL and
the three MMCTRL bits; and all of these but the CON bits, which no read returns (R38), are what software reads back in
the defined bits (R74). STATC and DATABUF are no outputs. -/
def Obligations.EngineSeesWhatSoftwareReads : Prop :=
  (∀ x : Instance,
    x.outputs.conAa = x.con.aa ∧ x.outputs.conSi = x.con.si ∧ x.outputs.conSto = x.con.sto ∧
    x.outputs.conSta = x.con.sta ∧ x.outputs.conEn = x.con.i2cen ∧ x.outputs.dat = x.dat ∧
    x.outputs.adr[0] = x.adr0 ∧ x.outputs.adr[1] = x.adr1 ∧ x.outputs.adr[2] = x.adr2 ∧ x.outputs.adr[3] = x.adr3 ∧
    x.outputs.mask[0] = x.mask0 ∧ x.outputs.mask[1] = x.mask1 ∧ x.outputs.mask[2] = x.mask2 ∧
    x.outputs.mask[3] = x.mask3 ∧ x.outputs.sclh = x.sclh ∧ x.outputs.scll = x.scll ∧
    x.outputs.mmEna = x.mmctrl.getLsbD 0 ∧ x.outputs.enaScl = x.mmctrl.getLsbD 1 ∧
    x.outputs.matchAll = x.mmctrl.getLsbD 2) ∧
  ∀ (i : Instr) (s t : State) (x : Instance) (v : Word),
    s.insts[s.sel]? = some x → exec i s = .next t → t.rdata = some v →
    (i = .rdDat → v.extractLsb' 0 8 = x.outputs.dat) ∧
    (i = .rdAdr0 → v.extractLsb' 0 8 = x.outputs.adr[0]) ∧ (i = .rdAdr1 → v.extractLsb' 0 8 = x.outputs.adr[1]) ∧
    (i = .rdAdr2 → v.extractLsb' 0 8 = x.outputs.adr[2]) ∧ (i = .rdAdr3 → v.extractLsb' 0 8 = x.outputs.adr[3]) ∧
    (i = .rdMask0 → v.extractLsb' 1 7 = x.outputs.mask[0]) ∧ (i = .rdMask1 → v.extractLsb' 1 7 = x.outputs.mask[1]) ∧
    (i = .rdMask2 → v.extractLsb' 1 7 = x.outputs.mask[2]) ∧ (i = .rdMask3 → v.extractLsb' 1 7 = x.outputs.mask[3]) ∧
    (i = .rdSclh → v.extractLsb' 0 16 = x.outputs.sclh) ∧ (i = .rdScll → v.extractLsb' 0 16 = x.outputs.scll) ∧
    (i = .rdMmctrl → v.getLsbD 0 = x.outputs.mmEna ∧ v.getLsbD 1 = x.outputs.enaScl ∧
      v.getLsbD 2 = x.outputs.matchAll)

/-- R113, R140: the interrupt output is SI in every state, 1 while it is 1 and 0 while it is 0, gated by nothing;
`WR CONCLR, 0x08` drops it and `WR CONSET, 0x08` raises it in the same step, and neither raises a fault. -/
def Obligations.ClearingSiDropsTheInterrupt : Prop :=
  (∀ x : Instance, x.irq = x.con.si ∧ x.outputs.irq = x.con.si) ∧
  ∀ (s : State) (x : Instance), s.insts[s.sel]? = some x →
    (∃ (t : State) (y : Instance), exec (.wrConclr 0x08#32) s = .next t ∧ t.insts[s.sel]? = some y ∧ y.irq = false ∧
      y.faults = x.faults) ∧
    (∃ (t : State) (y : Instance), exec (.wrConset 0x08#32) s = .next t ∧ t.insts[s.sel]? = some y ∧ y.irq = true ∧
      y.faults = x.faults)

/-! Encoding. -/

/-- Some words of R79 to R111, one or more of each family, decode to the accesses they stand for. -/
def Obligations.SpecWordsDecode : Prop :=
  decodeAccess 0b100000000#9 0#32 = .ok .rdConset ∧
  decodeAccess 0b101000000#9 0x44#32 = .ok (.wrConset 0x44#32) ∧
  decodeAccess 0b101011000#9 0x6C#32 = .ok (.wrConclr 0x6C#32) ∧
  decodeAccess 0b100000100#9 0#32 = .ok .rdStat ∧
  decodeAccess 0b101001000#9 0xA0#32 = .ok (.wrDat 0xA0#32) ∧
  decodeAccess 0b100101100#9 0#32 = .ok .rdDatabuf ∧
  decodeAccess 0b100100000#9 0#32 = .ok .rdAdr1 ∧
  decodeAccess 0b101111100#9 0xFE#32 = .ok (.wrMask3 0xFE#32) ∧
  decodeAccess 0b100010000#9 0#32 = .ok .rdSclh ∧
  decodeAccess 0b101011100#9 5#32 = .ok (.wrMmctrl 5#32)

/-- R60, R61: an access word decodes exactly if it is one of the 32 legal words `0x100 | k<<2` and `0x140 | k<<2`; any
other word is rejected, for its size if SZ is not 10, else for its misalignment. -/
def Obligations.LegalWordsAreTheThirtyTwo : Prop :=
  ∀ (aw : BitVec 9) (w : Word),
    ((∃ i, decodeAccess aw w = .ok i) ↔
      ∃ k : BitVec 4, aw = 0x100#9 ||| (k.setWidth 9 <<< 2) ∨ aw = 0x140#9 ||| (k.setWidth 9 <<< 2)) ∧
    (decodeAccess aw w = .error .illegalSize ↔ aw.extractLsb' 7 2 ≠ 0b10#2) ∧
    (decodeAccess aw w = .error .misaligned ↔ aw.extractLsb' 7 2 = 0b10#2 ∧ aw.extractLsb' 0 2 ≠ 0b00#2)

/-- Decode and encode agree: every instruction's bytes, whatever follows them, decode to it with every bit of its WDATA,
and leave what follows. -/
def Obligations.DecodeOfEncodeIsTheInstruction : Prop :=
  ∀ (i : Instr) (rest : List Byte), i.wf = true → decode (encode i ++ rest) = .ok (i, rest)

/-- The other direction: bytes that decode are the encoding of what they decode to, so no two encodings share a meaning.
The byte container is the model's (log entry 5). -/
def Obligations.DecodedBytesAreTheEncoding : Prop :=
  ∀ (bs rest : List Byte) (i : Instr), decode bs = .ok (i, rest) → bs = encode i ++ rest

/-- R72: the decode of an aligned offset in the window is complete and one-hot: exactly one register has the offset, and
a read or a write there decodes to the read or the write of it, with WDATA unmodified (R59). -/
def Obligations.AlignedOffsetSelectsOneRegister : Prop :=
  ∀ off : Nat, off < 0x40 → off % 4 = 0 →
    ∃ r : RegName, r.offset = off ∧ (∀ q : RegName, q.offset = off → q = r) ∧
      decode (accessBytes 4 off .read) = .ok (readOf r, []) ∧
      ∀ w, decode (accessBytes 4 off (.write w)) = .ok (writeOf r w, [])

/-! A step. -/

/-- A step runs the decoded instruction: where an access that passes the checks is next and its bytes decode to `i`, the
step is exec of `i` on that instance, the input taken. -/
def Obligations.StepRunsTheDecodedInstruction : Prop :=
  ∀ (s : State) (a : BusAccess) (rest : List Input) (n : Nat) (x : Instance) (i : Instr) (bs : List Byte),
    Arrives s a rest n x → a.size = 4 → offIn x a % 4 = 0 → offIn x a < 0x40 →
    decode (accessBytes 4 (offIn x a) a.kind) = .ok (i, bs) →
    step s = exec i { s with inputs := rest, sel := n }

/-- A placed access runs (log entry 1): after `withFetchWord` with the word of a legal access, the next step is exec of
that access on the selected instance. -/
def Obligations.PlacedAccessRunsNext : Prop :=
  ∀ (s : State) (aw : BitVec 9) (w : Word) (i : Instr), s.Inv → decodeAccess aw w = .ok i →
    step (s.withFetchWord 48 (aw.toNat + w.toNat * 2 ^ 16)) = exec i s

/-- R78: every read or write of an instance's one bus agent that reaches its region completes in one step: no stop, no
retry, whatever its size and offset; a read returns data, a write none. -/
def Obligations.EveryAccessCompletesInOneStep : Prop :=
  ∀ (s : State) (a : BusAccess) (rest : List Input) (n : Nat) (x : Instance),
    Arrives s a rest n x → a.kind ≠ .fetch →
    ∃ t, step s = .next t ∧ t.inputs = rest ∧ (t.rdata.isSome = true ↔ a.kind = .read)

/-- R69 with R73: an access whose size is not 4 records F_SIZE and nothing else, whatever its offset. -/
def Obligations.WrongSizeRecordsSizeFault : Prop :=
  ∀ (s : State) (a : BusAccess) (rest : List Input) (n : Nat) (x : Instance),
    Arrives s a rest n x → a.size ≠ 4 → RejectedWith .size s a rest n x

/-- R70 with R73: a misaligned 4-byte access records F_MISALIGNED and nothing else, inside the window or not. -/
def Obligations.MisalignedAccessRecordsFault : Prop :=
  ∀ (s : State) (a : BusAccess) (rest : List Input) (n : Nat) (x : Instance),
    Arrives s a rest n x → a.size = 4 → offIn x a % 4 ≠ 0 → RejectedWith .misaligned s a rest n x

/-- R71: an aligned 4-byte access at offset 0x40 or above, inside the region, records F_UNMAPPED and nothing else. -/
def Obligations.UnmappedOffsetRecordsFault : Prop :=
  ∀ (s : State) (a : BusAccess) (rest : List Input) (n : Nat) (x : Instance),
    Arrives s a rest n x → a.size = 4 → offIn x a % 4 = 0 → 0x40 ≤ offIn x a → RejectedWith .unmapped s a rest n x

/-- R68: an access outside every region is no instance's step: nothing of any instance changes. That the machine goes on
and returns no data is the model's choice (log entry 6). -/
def Obligations.AccessOutsideEveryRegionTouchesNothing : Prop :=
  ∀ (s : State) (a : BusAccess) (rest : List Input), s.inputs = .access a :: rest →
    (∀ x ∈ s.insts, a.addr.toNat < x.params.base.toNat ∨ x.params.base.toNat + x.params.regionSize ≤ a.addr.toNat) →
    step s = .next { s with inputs := rest, rdata := none }

/-- R73: one step records at most one fault kind, in at most one instance, and only an access records one. -/
def Obligations.OneAccessRecordsAtMostOneFault : Prop :=
  ∀ (s t : State), step s = .next t →
    t.insts.map Instance.faults = s.insts.map Instance.faults ∨
    ∃ (a : BusAccess) (rest : List Input) (n : Nat) (x : Instance) (k : FaultKind),
      s.inputs = .access a :: rest ∧ s.insts[n]? = some x ∧
      t.insts.map Instance.faults = (s.insts.map Instance.faults).set n (x.faults.add k)

/-- R52: an instruction fetch from an instance's region is refused. -/
def Obligations.InstructionFetchIsRefused : Prop :=
  ∀ (s : State) (a : BusAccess) (rest : List Input) (n : Nat) (x : Instance),
    Arrives s a rest n x → a.kind = .fetch → step s = .refused .instructionFetch

/-- R49 (decision D25 of the spec): an access by an agent other than the one admitted to the instance is refused. That
the model knows the agents by a number is its own choice (log entry 7). -/
def Obligations.SecondBusAgentIsRefused : Prop :=
  ∀ (s : State) (a : BusAccess) (rest : List Input) (n : Nat) (x : Instance),
    s.Inv → s.inputs = .access a :: rest → s.insts[n]? = some x →
    x.params.base.toNat ≤ a.addr.toNat → a.addr.toNat < x.params.base.toNat + x.params.regionSize →
    a.agent ≠ x.params.owner → step s = .refused .secondBusAgent

/-- R46: a read step leaves every instance as it was, or adds ONE fault kind to the fault set of the ONE instance whose
region holds its address, and the kind is one that R69 to R71, R81 or R82 raise. -/
def Obligations.ReadStepChangesOnlyFaults : Prop :=
  ∀ (s t : State) (a : BusAccess) (rest : List Input), s.inputs = .access a :: rest → a.kind = .read →
    step s = .next t →
    t.insts = s.insts ∨
    ∃ (n : Nat) (x : Instance) (k : FaultKind), s.insts[n]? = some x ∧
      x.params.base.toNat ≤ a.addr.toNat ∧ a.addr.toNat < x.params.base.toNat + x.params.regionSize ∧
      (k = .size ∨ k = .misaligned ∨ k = .unmapped ∨ k = .writeOnlyRead) ∧
      t.insts = s.insts.set n { x with faults := x.faults.add k }

/-! The engine. -/

/-- R116 to R121 with R115: an event that may occur (R122) changes exactly its own target, in one step that returns no
bus data and records no fault. After SetSI the interrupt output is 1. -/
def Obligations.EngineEventsChangeTheirTargetOnly : Prop :=
  ∀ (s : State) (n : Nat) (rest : List Input) (x : Instance),
    s.insts[n]? = some x → (x.params.engineGated = true → x.con.i2cen = true) →
    ∀ e y, s.inputs = .engine n e :: rest →
      ((e = .setSI ∧ y = { x with con := ⟨x.con.aa, true, x.con.sto, x.con.sta, x.con.i2cen⟩ }) ∨
       (e = .clearSTA ∧ y = { x with con := ⟨x.con.aa, x.con.si, x.con.sto, false, x.con.i2cen⟩ }) ∨
       (e = .clearSTO ∧ y = { x with con := ⟨x.con.aa, x.con.si, false, x.con.sta, x.con.i2cen⟩ }) ∨
       (∃ c, e = .setStat c ∧ y = { x with statc := c }) ∨
       (∃ b, e = .loadDAT b ∧ y = { x with dat := b }) ∨
       (∃ b, e = .loadDATABUF b ∧ y = { x with databuf := b })) →
      step s = .next { s with insts := s.insts.set n y, inputs := rest, rdata := none } ∧ (e = .setSI → y.irq = true)

/-- R122: with `ENGINE_GATED_BY_EN`, no engine event changes anything while CON.I2CEN = 0. That the machine goes on past
an event that may not occur is the model's choice (log entry 9). -/
def Obligations.GatedEngineChangesNothingWhileDisabled : Prop :=
  ∀ (s : State) (n : Nat) (e : EngineEvent) (rest : List Input) (x : Instance),
    s.inputs = .engine n e :: rest → s.insts[n]? = some x → x.params.engineGated = true → x.con.i2cen = false →
    step s = .next { s with inputs := rest, rdata := none }

/-- R114: no engine event changes AA, I2CEN, ADRn, MASKn, SCLH, SCLL or MMCTRL, clears SI, sets STA or STO, or records a
fault (R115), in any instance. -/
def Obligations.EngineKeepsConfiguration : Prop :=
  ∀ (s t : State) (n : Nat) (e : EngineEvent) (rest : List Input), s.inputs = .engine n e :: rest → step s = .next t →
    ∀ (m : Nat) (x : Instance), s.insts[m]? = some x → ∃ y, t.insts[m]? = some y ∧
      y.con.aa = x.con.aa ∧ y.con.i2cen = x.con.i2cen ∧
      y.adr0 = x.adr0 ∧ y.adr1 = x.adr1 ∧ y.adr2 = x.adr2 ∧ y.adr3 = x.adr3 ∧
      y.mask0 = x.mask0 ∧ y.mask1 = x.mask1 ∧ y.mask2 = x.mask2 ∧ y.mask3 = x.mask3 ∧
      y.sclh = x.sclh ∧ y.scll = x.scll ∧ y.mmctrl = x.mmctrl ∧
      (x.con.si = true → y.con.si = true) ∧ (x.con.sta = false → y.con.sta = false) ∧
      (x.con.sto = false → y.con.sto = false) ∧ y.faults = x.faults

/-- R123: `WR CONCLR, 0x08` and SetSI that race are two steps in either order; SI is 1 after the one and 0 after the
other. -/
def Obligations.RaceOfClearingAndSettingSi : Prop :=
  ∀ (s : State) (n : Nat) (x : Instance) (rest : List Input),
    s.Inv → s.insts[n]? = some x → (x.params.engineGated = true → x.con.i2cen = true) →
    (∃ t y, core.run 2 { s with inputs := writeAccess x.params .conclr 0x08#32 :: .engine n .setSI :: rest } = .next t ∧
      t.insts[n]? = some y ∧ y.con.si = true ∧ t.inputs = rest) ∧
    (∃ t y, core.run 2 { s with inputs := .engine n .setSI :: writeAccess x.params .conclr 0x08#32 :: rest } = .next t ∧
      t.insts[n]? = some y ∧ y.con.si = false ∧ t.inputs = rest)

/-- R123: `WR DAT, b1` and LoadDAT(b2) that race are two steps in either order; DAT is b2 after the one and b1 after the
other. -/
def Obligations.RaceOfWritingAndLoadingDat : Prop :=
  ∀ (s : State) (n : Nat) (x : Instance) (rest : List Input) (b1 b2 : Byte),
    s.Inv → s.insts[n]? = some x → (x.params.engineGated = true → x.con.i2cen = true) →
    (∃ t y, core.run 2 { s with
        inputs := writeAccess x.params .dat (b1.setWidth 32) :: .engine n (.loadDAT b2) :: rest } = .next t ∧
      t.insts[n]? = some y ∧ y.dat = b2 ∧ t.inputs = rest) ∧
    (∃ t y, core.run 2 { s with
        inputs := .engine n (.loadDAT b2) :: writeAccess x.params .dat (b1.setWidth 32) :: rest } = .next t ∧
      t.insts[n]? = some y ∧ y.dat = b1 ∧ t.inputs = rest)

/-! Rules of the whole machine. -/

/-- R31: no step removes a fault kind from any instance, a reset neither. -/
def Obligations.NoStepRemovesAFault : Prop :=
  ∀ (s t : State), step s = .next t → ∀ (m : Nat) (x : Instance), s.insts[m]? = some x →
    ∃ y, t.insts[m]? = some y ∧ ∀ k, x.faults.has k = true → y.faults.has k = true

/-- R11: a state with a recorded fault is never followed by a good one. -/
def Obligations.BadStateNeverBecomesGood : Prop :=
  ∀ (s t : State), s.good = false → step s = .next t → t.good = false

/-- R16, R118: STO goes from 1 to 0 only by the engine's ClearSTO or a reset; no access clears it. -/
def Obligations.OnlyEngineOrResetClearsSto : Prop :=
  ∀ (s t : State) (m : Nat) (x y : Instance), step s = .next t → s.insts[m]? = some x → t.insts[m]? = some y →
    x.con.sto = true → y.con.sto = false →
    ∃ rest, s.inputs = .engine m .clearSTO :: rest ∨ s.inputs = .reset m :: rest

/-- R136: SI goes from 1 to 0 only by a write of 1 to CONCLR bit 3 or a reset; no read and no engine event clears it. -/
def Obligations.OnlyConclrOrResetClearsSi : Prop :=
  ∀ (s t : State) (m : Nat) (x y : Instance), step s = .next t → s.insts[m]? = some x → t.insts[m]? = some y →
    x.con.si = true → y.con.si = false →
    (∃ a rest w, s.inputs = .access a :: rest ∧ a.kind = .write w ∧ w.getLsbD 3 = true ∧
      a.size = 4 ∧ x.params.base.toNat ≤ a.addr.toNat ∧ offIn x a = 0x18) ∨
    (∃ rest, s.inputs = .reset m :: rest)

/-- R136: SI goes from 0 to 1 only by the engine's SetSI or a write of 1 to CONSET bit 3. -/
def Obligations.OnlyConsetOrEngineSetsSi : Prop :=
  ∀ (s t : State) (m : Nat) (x y : Instance), step s = .next t → s.insts[m]? = some x → t.insts[m]? = some y →
    x.con.si = false → y.con.si = true →
    (∃ a rest w, s.inputs = .access a :: rest ∧ a.kind = .write w ∧ w.getLsbD 3 = true ∧
      a.size = 4 ∧ x.params.base.toNat ≤ a.addr.toNat ∧ offIn x a = 0x00) ∨
    (∃ rest, s.inputs = .engine m .setSI :: rest)

/-- R22, R87: STATC changes only by SetStat or a reset, and DATABUF only by LoadDATABUF or a reset: the bus writes
neither. -/
def Obligations.OnlyEngineOrResetChangesReadOnlyRegisters : Prop :=
  ∀ (s t : State) (m : Nat) (x y : Instance), step s = .next t → s.insts[m]? = some x → t.insts[m]? = some y →
    (y.statc ≠ x.statc → ∃ rest, s.inputs = .engine m (.setStat y.statc) :: rest ∨ s.inputs = .reset m :: rest) ∧
    (y.databuf ≠ x.databuf →
      ∃ rest, s.inputs = .engine m (.loadDATABUF y.databuf) :: rest ∨ s.inputs = .reset m :: rest)

/-- R41, R144: instances share no state: a step leaves every instance its input is not for exactly as it was. -/
def Obligations.InstancesAreIndependent : Prop :=
  ∀ (s t : State) (i : Input) (rest : List Input), s.inputs = i :: rest → step s = .next t →
    ∀ (m : Nat) (x : Instance), s.insts[m]? = some x → ¬ i.isFor m x → t.insts[m]? = some x

/-- D4, R41: every step keeps the platform legal and every instance's parameters as they are. -/
def Obligations.StepKeepsThePlatform : Prop :=
  ∀ (s t : State), s.Inv → step s = .next t →
    t.Inv ∧ t.insts.map Instance.params = s.insts.map Instance.params

/-- D4, R41: the platform of State.reset is legal (which platform it is, is the model's choice, log entry 4). -/
def Obligations.ResetPlatformIsLegal : Prop := State.reset.Inv ∧ State.reset.good = true

/-! The source's functions on addresses and fields. -/

/-- R132, which the spec derives: for every field of the block, field_set then field_get gives the value back, keeps
every bit outside the field, and fails exactly if the value needs more bits than the field has. -/
def Obligations.FieldSetGetRoundTrip : Prop :=
  ∀ (r : RegName) (name : FieldName) (f : FieldDesc), fieldOf r name = some f → ∀ (v : Word) (n : Nat),
    (n < 2 ^ f.width → ∃ v', fieldSet v f n = .ok v' ∧ (fieldGet v' f).toNat = n ∧
      v' &&& ~~~f.mask = v &&& ~~~f.mask) ∧
    (2 ^ f.width ≤ n ↔ fieldSet v f n = .error .valueOutOfRange)

/-- R128: field_get gives a value within the field's width, and no bit outside the register's defined mask reaches it, so
the draws of a read do not. -/
def Obligations.FieldGetIgnoresReservedBits : Prop :=
  ∀ (r : RegName) (name : FieldName) (f : FieldDesc), fieldOf r name = some f → ∀ (v d : Word),
    (fieldGet v f).toNat < 2 ^ f.width ∧
    fieldGet ((v &&& defmask r) ||| (d &&& ~~~(defmask r))) f = fieldGet v f

/-- R124 and R125, with the derived values of R8: every row of the field table, its low, width, high and mask; every
field lies in bits 0 to 31; within a register no two fields overlap, and the union of a register's field masks is its
defined mask, so a register has no other field. -/
def Obligations.FieldsPartitionTheDefinedMask : Prop :=
  (HasField .conset .aa 2 1 2 0x00000004#32 ∧ HasField .conset .si 3 1 3 0x00000008#32 ∧
   HasField .conset .sto 4 1 4 0x00000010#32 ∧ HasField .conset .sta 5 1 5 0x00000020#32 ∧
   HasField .conset .i2cen 6 1 6 0x00000040#32 ∧
   HasField .conclr .aa 2 1 2 0x00000004#32 ∧ HasField .conclr .si 3 1 3 0x00000008#32 ∧
   HasField .conclr .sta 5 1 5 0x00000020#32 ∧ HasField .conclr .i2cen 6 1 6 0x00000040#32 ∧
   HasField .stat .status 3 5 7 0x000000F8#32 ∧ HasField .dat .data 0 8 7 0x000000FF#32 ∧
   (∀ r ∈ [RegName.adr0, .adr1, .adr2, .adr3],
     HasField r .gc 0 1 0 0x00000001#32 ∧ HasField r .addr 1 7 7 0x000000FE#32) ∧
   (∀ r ∈ [RegName.mask0, .mask1, .mask2, .mask3], HasField r .mask 1 7 7 0x000000FE#32) ∧
   HasField .sclh .sclh 0 16 15 0x0000FFFF#32 ∧ HasField .scll .scll 0 16 15 0x0000FFFF#32 ∧
   HasField .mmctrl .mmEna 0 1 0 0x00000001#32 ∧ HasField .mmctrl .enaScl 1 1 1 0x00000002#32 ∧
   HasField .mmctrl .matchAll 2 1 2 0x00000004#32 ∧ HasField .databuf .data 0 8 7 0x000000FF#32) ∧
  ∀ r : RegName,
    (∀ (a : FieldName) (f : FieldDesc), fieldOf r a = some f →
      1 ≤ f.width ∧ f.low ≤ f.high ∧ f.high ≤ 31 ∧ f.high + 1 = f.low + f.width) ∧
    (∀ (a b : FieldName) (f g : FieldDesc), fieldOf r a = some f → fieldOf r b = some g → a ≠ b →
      f.mask &&& g.mask = 0#32) ∧
    (FieldName.all.filterMap (fieldOf r)).foldl (fun m f => m ||| f.mask) 0#32 = defmask r

/-- R126, R127, R89: register_address adds the table's offset for each of the 16 names and is InvalidRegister for every
other string; the families go by their tables and not by a stride, and an index outside 0..3 is IndexOutOfRange. -/
def Obligations.RegisterAddressesFollowTheTable : Prop :=
  ∀ (base : Word),
    (∀ p ∈ namedOffsets, registerAddress base p.1 = .ok (base + p.2)) ∧
    (∀ name : String, (∀ p ∈ namedOffsets, name ≠ p.1) → registerAddress base name = .error .invalidRegister) ∧
    (∀ r : RegName, registerWordAddress base r = base + BitVec.ofNat 32 r.offset) ∧
    adrAddress base 0 = .ok (base + 0x0C#32) ∧ adrAddress base 1 = .ok (base + 0x20#32) ∧
    adrAddress base 2 = .ok (base + 0x24#32) ∧ adrAddress base 3 = .ok (base + 0x28#32) ∧
    maskAddress base 0 = .ok (base + 0x30#32) ∧ maskAddress base 1 = .ok (base + 0x34#32) ∧
    maskAddress base 2 = .ok (base + 0x38#32) ∧ maskAddress base 3 = .ok (base + 0x3C#32) ∧
    (∀ n : Int, (n < 0 ∨ 3 < n) →
      adrAddress base n = .error .indexOutOfRange ∧ maskAddress base n = .error .indexOutOfRange)

/-- R130, R131: request_set gives `1 << pos(bit)` for AA, SI, STO, STA and I2CEN, request_clear for AA, SI, STA and I2CEN,
and each is InvalidRegister for every other name, request_clear(STO) among them. The word of request_set, written to
CONSET, adds exactly that bit to CONVAL; the word of request_clear, written to CONCLR, takes exactly that bit away; neither
records a fault. -/
def Obligations.RequestsChangeOneControlBit : Prop :=
  (requestSet "AA" = .ok 0x04#32 ∧ requestSet "SI" = .ok 0x08#32 ∧ requestSet "STO" = .ok 0x10#32 ∧
    requestSet "STA" = .ok 0x20#32 ∧ requestSet "I2CEN" = .ok 0x40#32) ∧
  (requestClear "AA" = .ok 0x04#32 ∧ requestClear "SI" = .ok 0x08#32 ∧ requestClear "STA" = .ok 0x20#32 ∧
    requestClear "I2CEN" = .ok 0x40#32) ∧
  (∀ bit : String, bit ≠ "AA" → bit ≠ "SI" → bit ≠ "STO" → bit ≠ "STA" → bit ≠ "I2CEN" →
    requestSet bit = .error .invalidRegister) ∧
  (∀ bit : String, bit ≠ "AA" → bit ≠ "SI" → bit ≠ "STA" → bit ≠ "I2CEN" →
    requestClear bit = .error .invalidRegister) ∧
  (∀ (bit : String) (w : Word), requestSet bit = .ok w → ∀ (s : State) (x : Instance), s.insts[s.sel]? = some x →
    ∃ (t : State) (y : Instance), exec (.wrConset w) s = .next t ∧ t.insts[s.sel]? = some y ∧
      y.con.conval = x.con.conval ||| w ∧ y.faults = x.faults) ∧
  (∀ (bit : String) (w : Word), requestClear bit = .ok w → ∀ (s : State) (x : Instance), s.insts[s.sel]? = some x →
    ∃ (t : State) (y : Instance), exec (.wrConclr w) s = .next t ∧ t.insts[s.sel]? = some y ∧
      y.con.conval = x.con.conval &&& ~~~w ∧ y.faults = x.faults)

/-- R66, R75: FWR's write, formed from what its read returned, gives the field its new value, keeps every other bit of the
register and records no fault, whatever the read's reserved bits were: for every field of every read-write register. -/
def Obligations.FieldWriteKeepsTheOtherBits : Prop :=
  ∀ (r : RegName) (name : FieldName) (f : FieldDesc) (s t : State) (x : Instance) (seen w : Word) (v : Nat),
    isReadWrite r = true → fieldOf r name = some f → s.insts[s.sel]? = some x →
    exec (readOf r) s = .next t → t.rdata = some seen → fwrWord f seen v = .ok w →
    ∃ (u : State) (y : Instance), exec (writeOf r w) t = .next u ∧ u.insts[s.sel]? = some y ∧
      (fieldGet (y.placed r) f).toNat = v ∧ y.placed r &&& ~~~f.mask = x.placed r &&& ~~~f.mask ∧ y.faults = x.faults
end

