-- ==== Sys2Proof/Laws/State.lean ====
section
/-! SUPPORT. The small lemmas of the state's updates: what each shared update of an instance leaves in each field, and
membership in the fault set. -/

namespace Sys2Proof.Machine

@[simp] theorem Instance.raise_params (x : Instance) (k : FaultKind) : (x.raise k).params = x.params := rfl
@[simp] theorem Instance.raise_con (x : Instance) (k : FaultKind) : (x.raise k).con = x.con := rfl
@[simp] theorem Instance.raise_dat (x : Instance) (k : FaultKind) : (x.raise k).dat = x.dat := rfl
@[simp] theorem Instance.raise_adr0 (x : Instance) (k : FaultKind) : (x.raise k).adr0 = x.adr0 := rfl
@[simp] theorem Instance.raise_adr1 (x : Instance) (k : FaultKind) : (x.raise k).adr1 = x.adr1 := rfl
@[simp] theorem Instance.raise_adr2 (x : Instance) (k : FaultKind) : (x.raise k).adr2 = x.adr2 := rfl
@[simp] theorem Instance.raise_adr3 (x : Instance) (k : FaultKind) : (x.raise k).adr3 = x.adr3 := rfl
@[simp] theorem Instance.raise_mask0 (x : Instance) (k : FaultKind) : (x.raise k).mask0 = x.mask0 := rfl
@[simp] theorem Instance.raise_mask1 (x : Instance) (k : FaultKind) : (x.raise k).mask1 = x.mask1 := rfl
@[simp] theorem Instance.raise_mask2 (x : Instance) (k : FaultKind) : (x.raise k).mask2 = x.mask2 := rfl
@[simp] theorem Instance.raise_mask3 (x : Instance) (k : FaultKind) : (x.raise k).mask3 = x.mask3 := rfl
@[simp] theorem Instance.raise_sclh (x : Instance) (k : FaultKind) : (x.raise k).sclh = x.sclh := rfl
@[simp] theorem Instance.raise_scll (x : Instance) (k : FaultKind) : (x.raise k).scll = x.scll := rfl
@[simp] theorem Instance.raise_mmctrl (x : Instance) (k : FaultKind) : (x.raise k).mmctrl = x.mmctrl := rfl
@[simp] theorem Instance.raise_databuf (x : Instance) (k : FaultKind) : (x.raise k).databuf = x.databuf := rfl
@[simp] theorem Instance.raise_statc (x : Instance) (k : FaultKind) : (x.raise k).statc = x.statc := rfl
@[simp] theorem Instance.raise_faults (x : Instance) (k : FaultKind) : (x.raise k).faults = x.faults.add k := rfl
@[simp] theorem Instance.raise_placed (x : Instance) (k : FaultKind) (r : RegName) :
    (x.raise k).placed r = x.placed r := by cases r <;> rfl
@[simp] theorem Instance.raise_covers (x : Instance) (k : FaultKind) (a : Word) :
    (x.raise k).covers a = x.covers a := rfl

@[simp] theorem Instance.raiseIf_false (x : Instance) (k : FaultKind) : x.raiseIf false k = x := rfl
@[simp] theorem Instance.raiseIf_true (x : Instance) (k : FaultKind) : x.raiseIf true k = x.raise k := rfl

/-- `raiseIf` touches nothing but the fault set. -/
theorem Instance.raiseIf_eq (x : Instance) (b : Bool) (k : FaultKind) :
    x.raiseIf b k = { x with faults := if b then x.faults.add k else x.faults } := by
  cases b <;> rfl

@[simp] theorem Instance.raiseIf_faults (x : Instance) (b : Bool) (k : FaultKind) :
    (x.raiseIf b k).faults = if b then x.faults.add k else x.faults := by cases b <;> rfl
@[simp] theorem Instance.raiseIf_params (x : Instance) (b : Bool) (k : FaultKind) :
    (x.raiseIf b k).params = x.params := by cases b <;> rfl
@[simp] theorem Instance.raiseIf_con (x : Instance) (b : Bool) (k : FaultKind) :
    (x.raiseIf b k).con = x.con := by cases b <;> rfl
@[simp] theorem Instance.raiseIf_statc (x : Instance) (b : Bool) (k : FaultKind) :
    (x.raiseIf b k).statc = x.statc := by cases b <;> rfl
@[simp] theorem Instance.raiseIf_databuf (x : Instance) (b : Bool) (k : FaultKind) :
    (x.raiseIf b k).databuf = x.databuf := by cases b <;> rfl

@[simp] theorem Instance.store_params (x : Instance) (r : RegName) (w : Word) :
    (x.store r w).params = x.params := by cases r <;> rfl
@[simp] theorem Instance.store_con (x : Instance) (r : RegName) (w : Word) :
    (x.store r w).con = x.con := by cases r <;> rfl
@[simp] theorem Instance.store_statc (x : Instance) (r : RegName) (w : Word) :
    (x.store r w).statc = x.statc := by cases r <;> rfl
@[simp] theorem Instance.store_databuf (x : Instance) (r : RegName) (w : Word) :
    (x.store r w).databuf = x.databuf := by cases r <;> rfl
@[simp] theorem Instance.store_faults (x : Instance) (r : RegName) (w : Word) :
    (x.store r w).faults = x.faults := by cases r <;> rfl

/-- Storing into one register leaves the bits of every other. -/
theorem Instance.store_placed_ne (x : Instance) (r q : RegName) (w : Word) (h : q ≠ r) :
    (x.store r w).placed q = x.placed q := by
  cases r <;> cases q <;> first | rfl | exact absurd rfl h

@[simp] theorem Instance.atReset_params (p : Params) (n : Nat) (f : FaultSet) :
    (Instance.atReset p n f).params = p := rfl
@[simp] theorem Instance.atReset_con (p : Params) (n : Nat) (f : FaultSet) :
    (Instance.atReset p n f).con = Con.atReset := rfl
@[simp] theorem Instance.atReset_faults (p : Params) (n : Nat) (f : FaultSet) :
    (Instance.atReset p n f).faults = f := rfl

@[simp] theorem applyEvent_params (e : EngineEvent) (x : Instance) : (applyEvent e x).params = x.params := by
  cases e <;> rfl
@[simp] theorem applyEvent_faults (e : EngineEvent) (x : Instance) : (applyEvent e x).faults = x.faults := by
  cases e <;> rfl

@[simp] theorem Con.setBy_aa (w : Word) (c : Con) : (c.setBy w).aa = (w.getLsbD 2 || c.aa) := by
  simp only [Con.setBy]; cases w.getLsbD 2 <;> rfl
@[simp] theorem Con.setBy_si (w : Word) (c : Con) : (c.setBy w).si = (w.getLsbD 3 || c.si) := by
  simp only [Con.setBy]; cases w.getLsbD 3 <;> rfl
@[simp] theorem Con.setBy_sto (w : Word) (c : Con) : (c.setBy w).sto = (w.getLsbD 4 || c.sto) := by
  simp only [Con.setBy]; cases w.getLsbD 4 <;> rfl
@[simp] theorem Con.setBy_sta (w : Word) (c : Con) : (c.setBy w).sta = (w.getLsbD 5 || c.sta) := by
  simp only [Con.setBy]; cases w.getLsbD 5 <;> rfl
@[simp] theorem Con.setBy_i2cen (w : Word) (c : Con) : (c.setBy w).i2cen = (w.getLsbD 6 || c.i2cen) := by
  simp only [Con.setBy]; cases w.getLsbD 6 <;> rfl
@[simp] theorem Con.clearBy_aa (w : Word) (c : Con) : (c.clearBy w).aa = (!w.getLsbD 2 && c.aa) := by
  simp only [Con.clearBy]; cases w.getLsbD 2 <;> rfl
@[simp] theorem Con.clearBy_si (w : Word) (c : Con) : (c.clearBy w).si = (!w.getLsbD 3 && c.si) := by
  simp only [Con.clearBy]; cases w.getLsbD 3 <;> rfl
@[simp] theorem Con.clearBy_sto (w : Word) (c : Con) : (c.clearBy w).sto = c.sto := rfl
@[simp] theorem Con.clearBy_sta (w : Word) (c : Con) : (c.clearBy w).sta = (!w.getLsbD 5 && c.sta) := by
  simp only [Con.clearBy]; cases w.getLsbD 5 <;> rfl
@[simp] theorem Con.clearBy_i2cen (w : Word) (c : Con) : (c.clearBy w).i2cen = (!w.getLsbD 6 && c.i2cen) := by
  simp only [Con.clearBy]; cases w.getLsbD 6 <;> rfl

/-- A kind is in the set after an addition exactly if it was, or is the one added. -/
@[simp] theorem FaultSet.has_add (f : FaultSet) (k j : FaultKind) :
    (f.add k).has j = (decide (j = k) || f.has j) := by
  cases k <;> cases j <;> rfl

@[simp] theorem FaultSet.add_add (f : FaultSet) (k : FaultKind) : (f.add k).add k = f.add k := by
  cases k <;> rfl

@[simp] theorem FaultSet.has_empty (k : FaultKind) : FaultSet.empty.has k = false := by cases k <;> rfl

/-- Two sets with the same kinds are the same data. -/
theorem FaultSet.ext_has (f g : FaultSet) (h : ∀ k, f.has k = g.has k) : f = g := by
  have h1 := h .size
  have h2 := h .misaligned
  have h3 := h .unmapped
  have h4 := h .writeOnlyRead
  have h5 := h .readOnlyWrite
  have h6 := h .reservedWrite
  cases f; cases g
  simp only [FaultSet.has] at h1 h2 h3 h4 h5 h6
  simp [h1, h2, h3, h4, h5, h6]

end Sys2Proof.Machine
end

