-- ==== Sys2Proof/Laws/Decode.lean ====
section
/-! SUPPORT. The byte containers and the fields of an access word, each read back from what writes it. -/

namespace Sys2Proof

/-- A word's four bytes read back as the word. -/
@[simp] theorem wordOfBytes_bytes (w : Word) :
    wordOfBytes (w.extractLsb' 0 8) (w.extractLsb' 8 8) (w.extractLsb' 16 8) (w.extractLsb' 24 8) = w := by
  apply BitVec.eq_of_getLsbD_eq
  intro i hi
  simp only [wordOfBytes, BitVec.getLsbD_append, BitVec.getLsbD_extractLsb']
  split
  · simp_all
  · split
    · have : 8 + (i - 8) = i := by omega
      simp_all
    · split
      · have : 16 + (i - 8 - 8) = i := by omega
        simp_all
      · have : 24 + (i - 8 - 8 - 8) = i := by omega
        have : i - 8 - 8 - 8 < 8 := by omega
        simp_all

/-- An access word's two bytes read back as the word. -/
@[simp] theorem awOfBytes_bytes (aw : BitVec 9) :
    awOfBytes (aw.extractLsb' 0 8) ((aw.extractLsb' 8 1).setWidth 8) = aw := by
  revert aw; decide

/-- The container's upper seven bits are zero. -/
@[simp] theorem container_high (aw : BitVec 9) : ((aw.extractLsb' 8 1).setWidth 8).extractLsb' 1 7 = 0#7 := by
  revert aw; decide

/-- The register of a register's index is the register. -/
@[simp] theorem selectReg_regIndex (r : RegName) : selectReg (regIndex r) = r := by cases r <;> rfl

/-- The index of the register an index selects is the index: the select is one-hot and complete (R72). -/
@[simp] theorem regIndex_selectReg (k : BitVec 4) : regIndex (selectReg k) = k := by revert k; decide

/-- The offset of R19 is four times the index of R58. -/
theorem offset_eq_index (r : RegName) : r.offset = 4 * (regIndex r).toNat := by cases r <;> rfl

@[simp] theorem readOf_reg (r : RegName) : (readOf r).reg = r := by cases r <;> rfl
@[simp] theorem readOf_wdata (r : RegName) : (readOf r).wdata? = none := by cases r <;> rfl
@[simp] theorem writeOf_reg (r : RegName) (w : Word) : (writeOf r w).reg = r := by cases r <;> rfl
@[simp] theorem writeOf_wdata (r : RegName) (w : Word) : (writeOf r w).wdata? = some w := by cases r <;> rfl

/-- An instruction is the read or the write of its register. -/
theorem instr_eq (i : Instr) : (i.wdata? = none ∧ i = readOf i.reg) ∨ (∃ w, i.wdata? = some w ∧ i = writeOf i.reg w) := by
  cases i <;> first | exact .inl ⟨rfl, rfl⟩ | exact .inr ⟨_, rfl, rfl⟩

end Sys2Proof
end

