-- ==== Sys2Proof/Laws/Fields.lean ====
section
/-! SUPPORT. The derived values of a field descriptor (R8), and what the functions of 46_field_access.md can answer, said
once. -/

namespace Sys2Proof.Machine

/-- `high - low + 1` is the width, the exponent of the range of R128. -/
theorem FieldDesc.high_succ {f : FieldDesc} (h : 1 ≤ f.width) : f.high + 1 = f.low + f.width := by
  unfold FieldDesc.high; omega

/-- A field within the bounds of R8 has its top bit within the word. -/
theorem FieldDesc.high_le {f : FieldDesc} (h : f.wf = true) : f.high ≤ 31 := by
  have : f.low + f.width ≤ 32 := by simpa [FieldDesc.wf] using h
  unfold FieldDesc.high; omega

/-- field_set answers a word exactly for a value that fits the field (R129). -/
theorem fieldSet_ok {v w : Word} {f : FieldDesc} {n : Nat} : fieldSet v f n = .ok w ↔
    n < 2 ^ f.width ∧ w = (v &&& ~~~f.mask) ||| ((BitVec.ofNat 32 n <<< f.low) &&& f.mask) := by
  unfold fieldSet
  split
  · next h => simp [Nat.not_lt.mpr h]
  · next h => simp [Nat.lt_of_not_le h, eq_comm]

/-- A request answers a word exactly for the name of a field of the view, with a 1 at the field's place (R130, R131). -/
theorem requestWord_ok {r : RegName} {bit : String} {w : Word} : requestWord r bit = .ok w ↔
    ∃ f d, fieldOfString bit = some f ∧ fieldOf r f = some d ∧ w = 1#32 <<< d.low := by
  unfold requestWord
  split
  · next h => simp [h]
  · next f h =>
    cases hd : fieldOf r f <;> simp [h, hd, eq_comm]

end Sys2Proof.Machine
end

