-- ==== Sys2Proof/Laws/Ops.lean ====
section
/-! SUPPORT. What the shared operations and exec can do, said once: `completeRead_next`, `completeWrite_next`, and
`exec_eq`, which gives every instruction's next state as one equation over `instrEffect` and `instrReply`. -/

namespace Sys2Proof.Machine

/-- `completeRead` answers exactly if the selected instance exists, and then with this state. -/
theorem completeRead_eq {s : State} {x : Instance} (f : Instance → Word → Instance × Word)
    (h : s.insts[s.sel]? = some x) :
    s.completeRead f = .next { s with
      insts := s.insts.set s.sel (f x (Config.draw32 s.draws)).1
      rdata := some (f x (Config.draw32 s.draws)).2
      draws := s.draws + 1 } := by
  simp [State.completeRead, h]

/-- `completeWrite` answers exactly if the selected instance exists, and then with this state. -/
theorem completeWrite_eq {s : State} {x : Instance} (f : Instance → Instance) (h : s.insts[s.sel]? = some x) :
    s.completeWrite f = .next { s with insts := s.insts.set s.sel (f x), rdata := none } := by
  simp [State.completeWrite, h]

/-- No read completes where the selected instance does not exist. -/
theorem completeRead_none {s : State} (f : Instance → Word → Instance × Word) (h : s.insts[s.sel]? = none) :
    s.completeRead f = .refused .noSuchInstance := by
  simp [State.completeRead, h]

/-- No write completes where the selected instance does not exist. -/
theorem completeWrite_none {s : State} (f : Instance → Instance) (h : s.insts[s.sel]? = none) :
    s.completeWrite f = .refused .noSuchInstance := by
  simp [State.completeWrite, h]

/-- The generic read (R74) on the selected instance. -/
theorem genRead_eq {s : State} {x : Instance} (r : RegName) (h : s.insts[s.sel]? = some x) :
    genRead r s = .next { s with
      insts := s.insts.set s.sel x
      rdata := some ((x.placed r &&& defmask r) ||| (Config.draw32 s.draws &&& ~~~(defmask r)))
      draws := s.draws + 1 } := completeRead_eq _ h

/-- The generic write (R75) on the selected instance. -/
theorem genWrite_eq {s : State} {x : Instance} (r : RegName) (w : Word) (h : s.insts[s.sel]? = some x) :
    genWrite r w s = .next { s with
      insts := s.insts.set s.sel ((x.raiseIf (reservedSet r w) .reservedWrite).store r (w &&& defmask r))
      rdata := none } := completeWrite_eq _ h

/-- The write of a view of CON (R79, R80) on the selected instance. -/
theorem conWrite_eq {s : State} {x : Instance} (r : RegName) (f : Word → Con → Con) (w : Word)
    (h : s.insts[s.sel]? = some x) :
    conWrite r f w s = .next { s with
      insts := s.insts.set s.sel { x.raiseIf (reservedSet r w) .reservedWrite with con := f w x.con }
      rdata := none } := completeWrite_eq _ h

/-- The read of a write-only register (R81) on the selected instance. -/
theorem writeOnlyRead_eq {s : State} {x : Instance} (h : s.insts[s.sel]? = some x) :
    writeOnlyRead s = .next { s with
      insts := s.insts.set s.sel (x.raise .writeOnlyRead)
      rdata := some (Config.draw32 s.draws)
      draws := s.draws + 1 } := completeRead_eq _ h

/-- The write of a read-only register (R84) on the selected instance. -/
theorem readOnlyWrite_eq {s : State} {x : Instance} (h : s.insts[s.sel]? = some x) :
    readOnlyWrite s = .next { s with insts := s.insts.set s.sel (x.raise .readOnlyWrite), rdata := none } :=
  completeWrite_eq _ h

/-- A read the port rejects (R69 to R71) on the selected instance. -/
theorem rejectedRead_eq {s : State} {x : Instance} (k : FaultKind) (h : s.insts[s.sel]? = some x) :
    rejectedRead k s = .next { s with
      insts := s.insts.set s.sel (x.raise k)
      rdata := some (Config.draw32 s.draws)
      draws := s.draws + 1 } := completeRead_eq _ h

/-- A write the port rejects (R69 to R71) on the selected instance. -/
theorem rejectedWrite_eq {s : State} {x : Instance} (k : FaultKind) (h : s.insts[s.sel]? = some x) :
    rejectedWrite k s = .next { s with insts := s.insts.set s.sel (x.raise k), rdata := none } :=
  completeWrite_eq _ h

/-- What an instruction leaves in the selected instance (R76, R77). -/
def instrEffect (i : Instr) (x : Instance) : Instance :=
  match i with
  | .rdConset => x.raise .writeOnlyRead
  | .rdConclr => x.raise .writeOnlyRead
  | .rdStat | .rdDat | .rdAdr0 | .rdSclh | .rdScll | .rdMmctrl | .rdAdr1 | .rdAdr2 | .rdAdr3 | .rdDatabuf
  | .rdMask0 | .rdMask1 | .rdMask2 | .rdMask3 => x
  | .wrStat _ => x.raise .readOnlyWrite
  | .wrDatabuf _ => x.raise .readOnlyWrite
  | .wrConset w => { x.raiseIf (reservedSet .conset w) .reservedWrite with con := x.con.setBy w }
  | .wrConclr w => { x.raiseIf (reservedSet .conclr w) .reservedWrite with con := x.con.clearBy w }
  | .wrDat w => (x.raiseIf (reservedSet .dat w) .reservedWrite).store .dat (w &&& defmask .dat)
  | .wrAdr0 w => (x.raiseIf (reservedSet .adr0 w) .reservedWrite).store .adr0 (w &&& defmask .adr0)
  | .wrAdr1 w => (x.raiseIf (reservedSet .adr1 w) .reservedWrite).store .adr1 (w &&& defmask .adr1)
  | .wrAdr2 w => (x.raiseIf (reservedSet .adr2 w) .reservedWrite).store .adr2 (w &&& defmask .adr2)
  | .wrAdr3 w => (x.raiseIf (reservedSet .adr3 w) .reservedWrite).store .adr3 (w &&& defmask .adr3)
  | .wrMask0 w => (x.raiseIf (reservedSet .mask0 w) .reservedWrite).store .mask0 (w &&& defmask .mask0)
  | .wrMask1 w => (x.raiseIf (reservedSet .mask1 w) .reservedWrite).store .mask1 (w &&& defmask .mask1)
  | .wrMask2 w => (x.raiseIf (reservedSet .mask2 w) .reservedWrite).store .mask2 (w &&& defmask .mask2)
  | .wrMask3 w => (x.raiseIf (reservedSet .mask3 w) .reservedWrite).store .mask3 (w &&& defmask .mask3)
  | .wrSclh w => (x.raiseIf (reservedSet .sclh w) .reservedWrite).store .sclh (w &&& defmask .sclh)
  | .wrScll w => (x.raiseIf (reservedSet .scll w) .reservedWrite).store .scll (w &&& defmask .scll)
  | .wrMmctrl w => (x.raiseIf (reservedSet .mmctrl w) .reservedWrite).store .mmctrl (w &&& defmask .mmctrl)

/-- What an instruction returns to the bus, `d` the draw a read takes (R74, R81). -/
def instrReply (i : Instr) (x : Instance) (d : Word) : Option Word :=
  match i.wdata?, i.reg with
  | some _, _ => none
  | none, .conset => some d
  | none, .conclr => some d
  | none, r => some ((x.placed r &&& defmask r) ||| (d &&& ~~~(defmask r)))

/-- How many draws an instruction takes: one for a read. -/
def instrDraws (i : Instr) : Nat := if i.wdata?.isSome then 0 else 1

/-- Every instruction completes on an instance that exists, with the effect and the reply above, and changes nothing
else. -/
theorem exec_eq (i : Instr) {s : State} {x : Instance} (h : s.insts[s.sel]? = some x) :
    exec i s = .next { s with
      insts := s.insts.set s.sel (instrEffect i x)
      rdata := instrReply i x (Config.draw32 s.draws)
      draws := s.draws + instrDraws i } := by
  cases i <;> first
    | exact genRead_eq _ h
    | exact genWrite_eq _ _ h
    | exact conWrite_eq _ _ _ h
    | exact writeOnlyRead_eq h
    | exact readOnlyWrite_eq h

/-- An instruction runs on no instance exactly where the selection names none. -/
theorem exec_none (i : Instr) {s : State} (h : s.insts[s.sel]? = none) : exec i s = .refused .noSuchInstance := by
  have hr : ∀ r, genRead r s = .refused .noSuchInstance := fun r => completeRead_none _ h
  have hw : ∀ r w, genWrite r w s = .refused .noSuchInstance := fun r w => completeWrite_none _ h
  have hc : ∀ r f w, conWrite r f w s = .refused .noSuchInstance := fun r f w => completeWrite_none _ h
  have ho : writeOnlyRead s = .refused .noSuchInstance := completeRead_none _ h
  have hn : readOnlyWrite s = .refused .noSuchInstance := completeWrite_none _ h
  cases i <;> first | exact hr _ | exact hw _ _ | exact hc _ _ _ | exact ho | exact hn

/-- An instruction that answers had an instance to run on. -/
theorem exec_next_selected {i : Instr} {s t : State} (h : exec i s = .next t) : ∃ x, s.insts[s.sel]? = some x := by
  cases hx : s.insts[s.sel]? with
  | some x => exact ⟨x, rfl⟩
  | none => rw [exec_none i hx] at h; cases h

/-- What an answering instruction has done. -/
theorem exec_next {i : Instr} {s t : State} (h : exec i s = .next t) :
    ∃ x, s.insts[s.sel]? = some x ∧ t = { s with
      insts := s.insts.set s.sel (instrEffect i x)
      rdata := instrReply i x (Config.draw32 s.draws)
      draws := s.draws + instrDraws i } := by
  obtain ⟨x, hx⟩ := exec_next_selected h
  refine ⟨x, hx, ?_⟩
  rw [exec_eq i hx] at h
  exact (Host.Outcome.next.inj h).symm

@[simp] theorem instrEffect_params (i : Instr) (x : Instance) : (instrEffect i x).params = x.params := by
  cases i <;> simp [instrEffect]

/-- Setting an element to the value it has changes nothing. -/
theorem set_getElem_self {l : List Instance} {n : Nat} {x : Instance} (h : l[n]? = some x) : l.set n x = l := by
  apply List.ext_getElem?
  intro m
  by_cases e : n = m
  · subst e
    rw [List.getElem?_set_self' (l := l) (i := n)]
    simp [h]
  · rw [List.getElem?_set_ne e]

end Sys2Proof.Machine
end

