-- ==== Sys2Proof/Laws/PerInstr.lean ====
section
/-! SUPPORT. One lemma per instruction of the family `LegalEncoding`: the instruction is well-formed, its access word is
the one R60 gives it, and its bytes are as many as the access has. -/

namespace Sys2Proof.Laws.LegalEncoding

/-- The family's statement of an instruction: it is well-formed, its access word is legal (SZ = 10, OFF = the register's
offset, W set exactly for a write), and it takes two bytes, or six if it writes. -/
def Statement (i : Instr) : Prop :=
  i.wf = true ∧ awSize (accessWordOf i) = 0b10#2 ∧ (awOff (accessWordOf i)).toNat = i.reg.offset ∧
    awWrite (accessWordOf i) = i.wdata?.isSome ∧ (encode i).length = if i.wdata?.isSome then 6 else 2

/-- The fields of a write's access word (R54, R60). -/
theorem write_fields (r : RegName) :
    awSize (0x140#9 ||| ((regIndex r).setWidth 9 <<< 2)) = 0b10#2 ∧
    (awOff (0x140#9 ||| ((regIndex r).setWidth 9 <<< 2))).toNat = r.offset ∧
    awWrite (0x140#9 ||| ((regIndex r).setWidth 9 <<< 2)) = true := by
  cases r <;> decide

/-- Every instruction's register sits on an aligned word inside the window (R19). -/
theorem instr_wf (i : Instr) : i.wf = true := by
  have h : ∀ r : RegName, (accessSizeOk 4 && offsetAligned r.offset && offsetInWindow r.offset) = true := by
    intro r; cases r <;> decide
  exact h i.reg

theorem rdConset : Statement .rdConset := by unfold Statement; decide
theorem rdStat : Statement .rdStat := by unfold Statement; decide
theorem rdDat : Statement .rdDat := by unfold Statement; decide
theorem rdAdr0 : Statement .rdAdr0 := by unfold Statement; decide
theorem rdSclh : Statement .rdSclh := by unfold Statement; decide
theorem rdScll : Statement .rdScll := by unfold Statement; decide
theorem rdConclr : Statement .rdConclr := by unfold Statement; decide
theorem rdMmctrl : Statement .rdMmctrl := by unfold Statement; decide
theorem rdAdr1 : Statement .rdAdr1 := by unfold Statement; decide
theorem rdAdr2 : Statement .rdAdr2 := by unfold Statement; decide
theorem rdAdr3 : Statement .rdAdr3 := by unfold Statement; decide
theorem rdDatabuf : Statement .rdDatabuf := by unfold Statement; decide
theorem rdMask0 : Statement .rdMask0 := by unfold Statement; decide
theorem rdMask1 : Statement .rdMask1 := by unfold Statement; decide
theorem rdMask2 : Statement .rdMask2 := by unfold Statement; decide
theorem rdMask3 : Statement .rdMask3 := by unfold Statement; decide
theorem wrConset (wdata : Word) : Statement (.wrConset wdata) :=
  ⟨instr_wf _, (write_fields .conset).1, (write_fields .conset).2.1, (write_fields .conset).2.2, rfl⟩
theorem wrStat (wdata : Word) : Statement (.wrStat wdata) :=
  ⟨instr_wf _, (write_fields .stat).1, (write_fields .stat).2.1, (write_fields .stat).2.2, rfl⟩
theorem wrDat (wdata : Word) : Statement (.wrDat wdata) :=
  ⟨instr_wf _, (write_fields .dat).1, (write_fields .dat).2.1, (write_fields .dat).2.2, rfl⟩
theorem wrAdr0 (wdata : Word) : Statement (.wrAdr0 wdata) :=
  ⟨instr_wf _, (write_fields .adr0).1, (write_fields .adr0).2.1, (write_fields .adr0).2.2, rfl⟩
theorem wrSclh (wdata : Word) : Statement (.wrSclh wdata) :=
  ⟨instr_wf _, (write_fields .sclh).1, (write_fields .sclh).2.1, (write_fields .sclh).2.2, rfl⟩
theorem wrScll (wdata : Word) : Statement (.wrScll wdata) :=
  ⟨instr_wf _, (write_fields .scll).1, (write_fields .scll).2.1, (write_fields .scll).2.2, rfl⟩
theorem wrConclr (wdata : Word) : Statement (.wrConclr wdata) :=
  ⟨instr_wf _, (write_fields .conclr).1, (write_fields .conclr).2.1, (write_fields .conclr).2.2, rfl⟩
theorem wrMmctrl (wdata : Word) : Statement (.wrMmctrl wdata) :=
  ⟨instr_wf _, (write_fields .mmctrl).1, (write_fields .mmctrl).2.1, (write_fields .mmctrl).2.2, rfl⟩
theorem wrAdr1 (wdata : Word) : Statement (.wrAdr1 wdata) :=
  ⟨instr_wf _, (write_fields .adr1).1, (write_fields .adr1).2.1, (write_fields .adr1).2.2, rfl⟩
theorem wrAdr2 (wdata : Word) : Statement (.wrAdr2 wdata) :=
  ⟨instr_wf _, (write_fields .adr2).1, (write_fields .adr2).2.1, (write_fields .adr2).2.2, rfl⟩
theorem wrAdr3 (wdata : Word) : Statement (.wrAdr3 wdata) :=
  ⟨instr_wf _, (write_fields .adr3).1, (write_fields .adr3).2.1, (write_fields .adr3).2.2, rfl⟩
theorem wrDatabuf (wdata : Word) : Statement (.wrDatabuf wdata) :=
  ⟨instr_wf _, (write_fields .databuf).1, (write_fields .databuf).2.1, (write_fields .databuf).2.2, rfl⟩
theorem wrMask0 (wdata : Word) : Statement (.wrMask0 wdata) :=
  ⟨instr_wf _, (write_fields .mask0).1, (write_fields .mask0).2.1, (write_fields .mask0).2.2, rfl⟩
theorem wrMask1 (wdata : Word) : Statement (.wrMask1 wdata) :=
  ⟨instr_wf _, (write_fields .mask1).1, (write_fields .mask1).2.1, (write_fields .mask1).2.2, rfl⟩
theorem wrMask2 (wdata : Word) : Statement (.wrMask2 wdata) :=
  ⟨instr_wf _, (write_fields .mask2).1, (write_fields .mask2).2.1, (write_fields .mask2).2.2, rfl⟩
theorem wrMask3 (wdata : Word) : Statement (.wrMask3 wdata) :=
  ⟨instr_wf _, (write_fields .mask3).1, (write_fields .mask3).2.1, (write_fields .mask3).2.2, rfl⟩

end Sys2Proof.Laws.LegalEncoding
end

