-- ==== Sys2Proof/Laws/Port.lean ====
section
/-! SUPPORT. What the port, the engine, the reset and a step can do, said once. -/

namespace Sys2Proof.Machine

/-- `findRegion` finds the first instance that covers the address. -/
theorem findRegion_some {addr : Word} {l : List Instance} {k n : Nat} {x : Instance}
    (h : findRegion addr l k = some (n, x)) :
    k ≤ n ∧ l[n - k]? = some x ∧ x.covers addr = true ∧
      ∀ m y, m < n - k → l[m]? = some y → y.covers addr = false := by
  induction l generalizing k with
  | nil => simp [findRegion] at h
  | cons a l ih =>
    simp only [findRegion] at h
    split at h
    · next hc =>
      obtain ⟨rfl, rfl⟩ := Prod.mk.inj (Option.some.inj h)
      simp [hc]
    · next hc =>
      obtain ⟨h1, h2, h3, h4⟩ := ih h
      have e : n - k = (n - (k + 1)) + 1 := by omega
      refine ⟨by omega, by rw [e]; simpa using h2, h3, ?_⟩
      intro m y hm hy
      cases m with
      | zero => simp at hy; subst hy; simpa using hc
      | succ m => exact h4 m y (by omega) (by simpa using hy)

/-- `findRegion` finds nothing exactly if no instance covers the address. -/
theorem findRegion_none {addr : Word} {l : List Instance} {k : Nat} :
    findRegion addr l k = none ↔ ∀ x ∈ l, x.covers addr = false := by
  induction l generalizing k with
  | nil => simp [findRegion]
  | cons a l ih =>
    simp only [findRegion]
    split
    · next h => simp [h]
    · next h => rw [ih]; simp [h]

/-- `findRegion` from 0 finds instance `n` if it covers the address and no earlier one does. -/
theorem findRegion_eq {addr : Word} {l : List Instance} {n : Nat} {x : Instance} (h : l[n]? = some x)
    (hc : x.covers addr = true) (h' : ∀ m y, m < n → l[m]? = some y → y.covers addr = false) :
    findRegion addr l 0 = some (n, x) := by
  cases hf : findRegion addr l 0 with
  | none => exact absurd (findRegion_none.mp hf x (List.mem_of_getElem? h)) (by simp [hc])
  | some p =>
    obtain ⟨m, y⟩ := p
    obtain ⟨-, h2, h3, h4⟩ := findRegion_some hf
    simp only [Nat.sub_zero] at h2 h4
    rcases Nat.lt_trichotomy m n with hlt | heq | hgt
    · exact absurd (h' m y hlt h2) (by simp [h3])
    · subst heq; rw [h] at h2; cases h2; rfl
    · exact absurd (h4 n x hgt h) (by simp [hc])

/-- The checks, one outcome each (R73). -/
theorem portCheck_cases (size off : Nat) :
    (size ≠ 4 ∧ portCheck size off = some .size) ∨
    (size = 4 ∧ off % 4 ≠ 0 ∧ portCheck size off = some .misaligned) ∨
    (size = 4 ∧ off % 4 = 0 ∧ 0x40 ≤ off ∧ portCheck size off = some .unmapped) ∨
    (size = 4 ∧ off % 4 = 0 ∧ off < 0x40 ∧ portCheck size off = none) := by
  unfold portCheck
  by_cases h1 : size = 4 <;> by_cases h2 : off % 4 = 0 <;> by_cases h3 : 0x40 ≤ off <;> simp_all

/-- What an access after the region check can do, if it answers: run the instruction its bytes decode to, or record a
port fault. -/
theorem performAccess_next {kind : AccessKind} {size off : Nat} {s t : State}
    (h : performAccess kind size off s = .next t) :
    ∃ x, s.insts[s.sel]? = some x ∧
      ((∃ i rest, portCheck size off = none ∧ decode (accessBytes size off kind) = .ok (i, rest) ∧ exec i s = .next t) ∨
       (∃ k, portCheck size off = some k ∧ kind = .read ∧ t = { s with
          insts := s.insts.set s.sel (x.raise k), rdata := some (Config.draw32 s.draws), draws := s.draws + 1 }) ∨
       (∃ k w, portCheck size off = some k ∧ kind = .write w ∧ t = { s with
          insts := s.insts.set s.sel (x.raise k), rdata := none })) := by
  unfold performAccess at h
  split at h
  · cases h
  · next k hk =>
    cases hx : s.insts[s.sel]? with
    | none => simp [rejectedRead, State.completeRead, hx] at h
    | some x =>
      refine ⟨x, rfl, .inr (.inl ⟨k, hk, rfl, ?_⟩)⟩
      rw [rejectedRead, completeRead_eq _ hx] at h
      exact (Host.Outcome.next.inj h).symm
  · next w k hk =>
    cases hx : s.insts[s.sel]? with
    | none => simp [rejectedWrite, State.completeWrite, hx] at h
    | some x =>
      refine ⟨x, rfl, .inr (.inr ⟨k, _, hk, rfl, ?_⟩)⟩
      rw [rejectedWrite, completeWrite_eq _ hx] at h
      exact (Host.Outcome.next.inj h).symm
  · next k hk =>
    unfold runAccess at h
    split at h
    · next i rest hd =>
      obtain ⟨x, hx⟩ := exec_next_selected h
      exact ⟨x, hx, .inl ⟨i, rest, hk, hd, h⟩⟩
    · cases h

/-- What an access can do, if it answers (R67, R68). -/
theorem accessStep_next {a : BusAccess} {s t : State} (h : accessStep a s = .next t) :
    (findRegion a.addr s.insts 0 = none ∧ t = { s with rdata := none }) ∨
    (∃ n x, findRegion a.addr s.insts 0 = some (n, x) ∧ a.agent = x.params.owner ∧
      performAccess a.kind a.size (offsetOf x.params a.addr) { s with sel := n } = .next t) := by
  unfold accessStep at h
  split at h
  · next hf => exact .inl ⟨hf, (Host.Outcome.next.inj h).symm⟩
  · next n x hf =>
    split at h
    · cases h
    · next ha => exact .inr ⟨n, x, hf, by simpa using ha, h⟩

/-- What an engine event does, if it answers (R115, R122). -/
theorem engineStep_next {n : Nat} {e : EngineEvent} {s t : State} (h : engineStep n e s = .next t) :
    ∃ x, s.insts[n]? = some x ∧ t = { s with
      insts := if x.engineMayAct then s.insts.set n (applyEvent e x) else s.insts, rdata := none } := by
  unfold engineStep at h
  split at h
  · cases h
  · next x hx => exact ⟨x, hx, (Host.Outcome.next.inj h).symm⟩

/-- What a reset does, if it answers (R148). -/
theorem resetStep_next {n : Nat} {s t : State} (h : resetStep n s = .next t) :
    ∃ x, s.insts[n]? = some x ∧ t = { s with
      insts := s.insts.set n (Instance.atReset x.params s.draws x.faults)
      rdata := none
      draws := s.draws + resetDraws } := by
  unfold resetStep at h
  split at h
  · cases h
  · next x hx => exact ⟨x, hx, (Host.Outcome.next.inj h).symm⟩

/-- What a step can do to the instances, said once: either they stay, or one of them, `n`, changes by exactly one of
these: the instruction of an access to it, a fault of the port, an event of its engine, a reset of it. -/
theorem step_instances {s t : State} (h : step s = .next t) :
    t.insts = s.insts ∨
    ∃ n x y, s.insts[n]? = some x ∧ t.insts = s.insts.set n y ∧
      ((∃ a rest i bs, s.inputs = .access a :: rest ∧ findRegion a.addr s.insts 0 = some (n, x) ∧
          a.agent = x.params.owner ∧ portCheck a.size (offsetOf x.params a.addr) = none ∧
          decode (accessBytes a.size (offsetOf x.params a.addr) a.kind) = .ok (i, bs) ∧ y = instrEffect i x) ∨
       (∃ a rest k, s.inputs = .access a :: rest ∧ findRegion a.addr s.insts 0 = some (n, x) ∧
          portCheck a.size (offsetOf x.params a.addr) = some k ∧ y = x.raise k) ∨
       (∃ e rest, s.inputs = .engine n e :: rest ∧ x.engineMayAct = true ∧ y = applyEvent e x) ∨
       (∃ rest, s.inputs = .reset n :: rest ∧ y = Instance.atReset x.params s.draws x.faults)) := by
  unfold step at h
  split at h
  · exact .inl (by cases h; rfl)
  · next inp rest hin =>
    cases inp with
    | access a =>
      rcases accessStep_next h with ⟨-, rfl⟩ | ⟨n, x, hf, ha, hp⟩
      · exact .inl rfl
      · obtain ⟨-, hx, -, -⟩ := findRegion_some hf
        simp only [Nat.sub_zero] at hx
        obtain ⟨z, hz, hcase⟩ := performAccess_next hp
        obtain rfl : z = x := by simpa [hx] using hz.symm
        rcases hcase with ⟨i, bs, hk, hd, he⟩ | ⟨k, hk, -, rfl⟩ | ⟨k, w, hk, -, rfl⟩
        · obtain ⟨z', hz', rfl⟩ := exec_next he
          obtain rfl : z' = z := by simpa [hx] using hz'.symm
          exact .inr ⟨n, z', _, hx, rfl, .inl ⟨a, rest, i, bs, hin, hf, ha, hk, hd, rfl⟩⟩
        · exact .inr ⟨n, z, _, hx, rfl, .inr (.inl ⟨a, rest, k, hin, hf, hk, rfl⟩)⟩
        · exact .inr ⟨n, z, _, hx, rfl, .inr (.inl ⟨a, rest, k, hin, hf, hk, rfl⟩)⟩
    | engine n e =>
      obtain ⟨x, hx, rfl⟩ := engineStep_next h
      cases hm : x.engineMayAct with
      | false => exact .inl (by simp)
      | true => exact .inr ⟨n, x, _, hx, by simp, .inr (.inr (.inl ⟨e, rest, hin, hm, rfl⟩))⟩
    | reset n =>
      obtain ⟨x, hx, rfl⟩ := resetStep_next h
      exact .inr ⟨n, x, _, hx, rfl, .inr (.inr (.inr ⟨rest, hin, rfl⟩))⟩

end Sys2Proof.Machine
end

