-- ==== Sys2Proof/Tests/Slice0.lean ====
section
/-! SUPPORT. The model's own tests: the ill-formed terms the checks refuse, words decoded by hand from 30_encoding.md,
the test vectors of 95_test_vectors.md, one step each, and a witness for the hypotheses of each statement. -/

namespace Sys2Proof.Tests

open Sys2Proof Sys2Proof.Machine

/-! A small machine. -/

/-- The platform of the vectors: `B` = 0x40000000 (95_test_vectors.md), a region of 0x80 bytes (P4). -/
def tPar : Params := { base := 0x40000000#32, regionSize := 0x80, engineGated := false, owner := 0 }

/-- CON from AA, SI, STO, STA, I2CEN. -/
def tCon (aa si sto sta en : Bool) : Con := ⟨aa, si, sto, sta, en⟩

/-- An instance with every register different. -/
def tInst : Instance :=
  { params := tPar, con := tCon false false false false false, dat := 0x5A#8
    adr0 := 0xA1#8, adr1 := 0xB2#8, adr2 := 0x71#8, adr3 := 0xD4#8
    mask0 := 0x7F#7, mask1 := 0x11#7, mask2 := 0x22#7, mask3 := 0x33#7
    sclh := 0x003C#16, scll := 0xFFFF#16, mmctrl := 0b101#3, databuf := 0x99#8, statc := 21#5
    faults := FaultSet.empty }

/-- A second instance, in the region above the first. -/
def tInst1 : Instance := { tInst with params := { tPar with base := 0x40000080#32, engineGated := true, owner := 1 } }

/-- The machine: two instances, the first selected. -/
def tState (x : Instance) (inputs : List Input) : State :=
  { insts := [x, tInst1], sel := 0, inputs := inputs, rdata := none, draws := 0 }

/-- The first instance after an outcome. -/
def inst0 : Result → Option Instance
  | .next t => t.insts[0]?
  | _ => none

/-- RDATA after an outcome. -/
def rdata0 : Result → Option Word
  | .next t => t.rdata
  | _ => none

/-- CONVAL of the first instance after an outcome. -/
def conval0 (r : Result) : Option Word := (inst0 r).map fun x => x.con.conval

/-- The fault codes (R134) the first instance holds after an outcome. -/
def codes0 (r : Result) : Option (List Nat) :=
  (inst0 r).map fun x =>
    ([FaultKind.size, .misaligned, .unmapped, .writeOnlyRead, .readOnlyWrite, .reservedWrite].filter x.faults.has).map
      FaultKind.code

/-- An access of the first instance's agent. -/
def acc (kind : AccessKind) (addr : Word) (size : Nat) : Input :=
  .access { agent := 0, kind := kind, addr := addr, size := size }

/-! Ill-formed terms: one for each check. -/

theorem smoke_access_size : accessSizeOk 2 = false ∧ accessSizeOk 4 = true := by decide
theorem smoke_access_aligned : offsetAligned 0x3E = false ∧ offsetAligned 0x3C = true := by decide
theorem smoke_access_window : offsetInWindow 0x40 = false ∧ offsetInWindow 0x3C = true := by decide
theorem smoke_region_too_small : regionSizeOk 0x20 = false ∧ regionSizeOk 0x40 = true := by decide
theorem smoke_region_no_power : regionSizeOk 0x60 = false := by decide
theorem smoke_region_too_large : regionSizeOk (2 ^ 33) = false := by decide
theorem smoke_base_unaligned : Params.wf { tPar with base := 0x40000040#32 } = false ∧ Params.wf tPar = true := by decide
theorem smoke_regions_meet : placementsOk [tPar, tPar] = false := by decide
theorem smoke_no_instance : placementsOk [] = false := by decide
theorem smoke_placements : placementsOk [tPar, tInst1.params] = true := by decide
theorem smoke_field_bounds : FieldDesc.wf ⟨.dat, 30, 3⟩ = false ∧ FieldDesc.wf ⟨.dat, 30, 2⟩ = true := by decide

/-! Decoding, bit by bit from R54 to R60: SZ, W, OFF. -/

/-- The 32 legal words of R60, each laid out with its register. -/
theorem test_decode_table_reads :
    [0x100, 0x104, 0x108, 0x10C, 0x110, 0x114, 0x118, 0x11C, 0x120, 0x124, 0x128, 0x12C, 0x130, 0x134, 0x138, 0x13C].map
      (decodeTableWord 16) =
    [.rdConset, .rdStat, .rdDat, .rdAdr0, .rdSclh, .rdScll, .rdConclr, .rdMmctrl, .rdAdr1, .rdAdr2, .rdAdr3, .rdDatabuf,
      .rdMask0, .rdMask1, .rdMask2, .rdMask3].map some := by decide
theorem test_decode_table_writes :
    [0x140, 0x144, 0x148, 0x14C, 0x150, 0x154, 0x158, 0x15C, 0x160, 0x164, 0x168, 0x16C, 0x170, 0x174, 0x178, 0x17C].map
      (decodeTableWord 16) =
    [.wrConset 0, .wrStat 0, .wrDat 0, .wrAdr0 0, .wrSclh 0, .wrScll 0, .wrConclr 0, .wrMmctrl 0, .wrAdr1 0, .wrAdr2 0,
      .wrAdr3 0, .wrDatabuf 0, .wrMask0 0, .wrMask1 0, .wrMask2 0, .wrMask3 0].map some := by decide
theorem test_decode_control : decode [0b01000000#8, 0b1#8, 0x44#8, 0#8, 0#8, 0#8] = .ok (.wrConset 0x44#32, []) := by decide
theorem test_decode_control_clear :
    decode [0b01011000#8, 0b1#8, 0x6C#8, 0x01#8, 0x02#8, 0x83#8] = .ok (.wrConclr 0x8302016C#32, []) := by decide
theorem test_decode_status : decode [0b00000100#8, 0b1#8, 0x77#8] = .ok (.rdStat, [0x77#8]) := by decide
theorem test_decode_address : decode [0b00100000#8, 0b1#8] = .ok (.rdAdr1, []) := by decide
theorem test_decode_mask :
    decode [0b01111000#8, 0b1#8, 0xFE#8, 0#8, 0#8, 0#8] = .ok (.wrMask2 0xFE#32, []) := by decide
theorem test_decode_clock : decode [0b00010100#8, 0b1#8] = .ok (.rdScll, []) := by decide
theorem test_decode_monitor :
    decode [0b01011100#8, 0b1#8, 0x05#8, 0#8, 0#8, 0#8] = .ok (.wrMmctrl 0x5#32, []) := by decide
/-- 95_test_vectors.md 2.1: AW 0x048 is a one-byte write, AW 0x13E is misaligned. -/
theorem test_decode_illegal_size : decode [0x48#8, 0#8, 0x55#8, 0#8, 0#8, 0#8] = .error .illegalSize := by decide
theorem test_decode_misaligned : decode [0x3E#8, 1#8] = .error .misaligned := by decide
theorem test_decode_truncated : decode [0x40#8, 1#8, 0#8] = .error .truncated := by decide
theorem test_decode_no_access_word : decode [0x00#8, 0x03#8] = .error .notAnAccessWord := by decide
theorem test_encode_words : encode .rdMask3 = [0x3C#8, 0x01#8] ∧
    encode (.wrDat 0xA0#32) = [0x48#8, 0x01#8, 0xA0#8, 0#8, 0#8, 0#8] := by decide
theorem test_form_word : formAccessWord 4 false 0x04 = 0x104#9 ∧ formAccessWord 1 true 0x08 = 0x048#9 ∧
    formAccessWord 4 false 0x3E = 0x13E#9 ∧ formAccessWord 3 false 0 = 0x180#9 := by decide

/-! The reads: 95_test_vectors.md 2.3 to 2.5, with the reserved bits masked off. -/

/-- What a read of a readable register returns, under the register's defined mask. -/
theorem read_masked (i : Instr) (x : Instance) (hi : i.wdata? = none) (h1 : i.reg ≠ .conset) (h2 : i.reg ≠ .conclr) :
    (rdata0 (exec i (tState x []))).map (fun v => v &&& defmask i.reg) = some (x.placed i.reg &&& defmask i.reg) := by
  have hr : ∀ d, instrReply i x d = some ((x.placed i.reg &&& defmask i.reg) ||| (d &&& ~~~(defmask i.reg))) := by
    intro d
    cases i <;> first | rfl | exact absurd rfl h1 | exact absurd rfl h2 | cases hi
  rw [exec_eq i (s := tState x []) (x := x) rfl]
  simp only [rdata0, hr, Option.map_some]
  congr 1
  ext j hj
  simp
  cases (defmask i.reg)[j] <;> simp

theorem test_rd_stat : (rdata0 (exec .rdStat (tState tInst []))).map (fun v => v &&& 0xF8#32) = some 0xA8#32 :=
  read_masked .rdStat tInst rfl (by decide) (by decide)

theorem test_rd_dat : (rdata0 (exec .rdDat (tState tInst []))).map (fun v => v &&& 0xFF#32) = some 0x5A#32 :=
  read_masked .rdDat tInst rfl (by decide) (by decide)

theorem test_rd_databuf : (rdata0 (exec .rdDatabuf (tState tInst []))).map (fun v => v &&& 0xFF#32) = some 0x99#32 :=
  read_masked .rdDatabuf tInst rfl (by decide) (by decide)

theorem test_rd_adr0 : (rdata0 (exec .rdAdr0 (tState tInst []))).map (fun v => v &&& 0xFF#32) = some 0xA1#32 :=
  read_masked .rdAdr0 tInst rfl (by decide) (by decide)

theorem test_rd_adr1 : (rdata0 (exec .rdAdr1 (tState tInst []))).map (fun v => v &&& 0xFF#32) = some 0xB2#32 :=
  read_masked .rdAdr1 tInst rfl (by decide) (by decide)

theorem test_rd_adr2 : (rdata0 (exec .rdAdr2 (tState tInst []))).map (fun v => v &&& 0xFF#32) = some 0x71#32 :=
  read_masked .rdAdr2 tInst rfl (by decide) (by decide)

theorem test_rd_adr3 : (rdata0 (exec .rdAdr3 (tState tInst []))).map (fun v => v &&& 0xFF#32) = some 0xD4#32 :=
  read_masked .rdAdr3 tInst rfl (by decide) (by decide)

theorem test_rd_mask0 : (rdata0 (exec .rdMask0 (tState tInst []))).map (fun v => v &&& 0xFE#32) = some 0xFE#32 :=
  read_masked .rdMask0 tInst rfl (by decide) (by decide)

theorem test_rd_mask1 : (rdata0 (exec .rdMask1 (tState tInst []))).map (fun v => v &&& 0xFE#32) = some 0x22#32 :=
  read_masked .rdMask1 tInst rfl (by decide) (by decide)

theorem test_rd_mask2 : (rdata0 (exec .rdMask2 (tState tInst []))).map (fun v => v &&& 0xFE#32) = some 0x44#32 :=
  read_masked .rdMask2 tInst rfl (by decide) (by decide)

theorem test_rd_mask3 : (rdata0 (exec .rdMask3 (tState tInst []))).map (fun v => v &&& 0xFE#32) = some 0x66#32 :=
  read_masked .rdMask3 tInst rfl (by decide) (by decide)

theorem test_rd_sclh : (rdata0 (exec .rdSclh (tState tInst []))).map (fun v => v &&& 0xFFFF#32) = some 0x3C#32 :=
  read_masked .rdSclh tInst rfl (by decide) (by decide)

theorem test_rd_scll : (rdata0 (exec .rdScll (tState tInst []))).map (fun v => v &&& 0xFFFF#32) = some 0xFFFF#32 :=
  read_masked .rdScll tInst rfl (by decide) (by decide)

theorem test_rd_mmctrl : (rdata0 (exec .rdMmctrl (tState tInst []))).map (fun v => v &&& 0x7#32) = some 0x5#32 :=
  read_masked .rdMmctrl tInst rfl (by decide) (by decide)

theorem test_rd_conset_faults : codes0 (exec .rdConset (tState tInst [])) = some [4] ∧
    conval0 (exec .rdConset (tState tInst [])) = some 0#32 := by decide
theorem test_rd_conclr_faults : codes0 (exec .rdConclr (tState tInst [])) = some [4] ∧
    conval0 (exec .rdConclr (tState tInst [])) = some 0#32 := by decide
theorem test_rd_conset_returns_a_draw : rdata0 (exec .rdConset (tState tInst [])) = some (Config.draw32 0) := rfl
theorem test_rd_conclr_returns_a_draw : rdata0 (exec .rdConclr (tState tInst [])) = some (Config.draw32 0) := rfl

/-! CONSET and CONCLR: 95_test_vectors.md 2.2. -/

/-- A CON write from a given CON: CONVAL and the faults after it. -/
def conAfter (i : Instr) (c : Con) : Option Word × Option (List Nat) :=
  (conval0 (exec i (tState { tInst with con := c } [])), codes0 (exec i (tState { tInst with con := c } [])))

theorem test_wr_conset_sets_all : conAfter (.wrConset 0x7C#32) (tCon false false false false false) =
    (some 0x7C#32, some []) := by decide
theorem test_wr_conset_reserved : conAfter (.wrConset 0x00000001#32) (tCon true false false false true) =
    (some 0x44#32, some [6]) ∧ conAfter (.wrConset 0xFFFFFFFF#32) (tCon false false false false false) =
    (some 0x7C#32, some [6]) := by decide
theorem test_wr_conclr_keeps_sto : conAfter (.wrConclr 0x6C#32) (tCon true true true true true) =
    (some 0x10#32, some []) := by decide
theorem test_wr_conclr_reserved : conAfter (.wrConclr 0x10#32) (tCon false false true false false) =
    (some 0x10#32, some [6]) ∧ conAfter (.wrConclr 0xFFFFFFFF#32) (tCon true true true true true) =
    (some 0x10#32, some [6]) := by decide

/-! The other writes: 95_test_vectors.md 2.3 to 2.5. -/

/-- A write: what the first instance holds after it, and the faults. -/
def wrAfter {α : Type} (i : Instr) (f : Instance → α) : Option α × Option (List Nat) :=
  ((inst0 (exec i (tState tInst []))).map f, codes0 (exec i (tState tInst [])))

theorem test_wr_stat : wrAfter (.wrStat 0#32) (fun x => x.statc) = (some 21#5, some [5]) := by decide
theorem test_wr_databuf : wrAfter (.wrDatabuf 0#32) (fun x => x.databuf) = (some 0x99#8, some [5]) := by decide
theorem test_wr_dat_reserved : wrAfter (.wrDat 0x000001A5#32) (fun x => x.dat) = (some 0xA5#8, some [6]) := by decide
theorem test_wr_dat : wrAfter (.wrDat 0xFF#32) (fun x => x.dat) = (some 0xFF#8, some []) := by decide
theorem test_wr_adr0 : wrAfter (.wrAdr0 0x01#32) (fun x => x.adr0) = (some 0x01#8, some []) := by decide
theorem test_wr_adr1 : wrAfter (.wrAdr1 0xA1#32) (fun x => (x.adr1, x.sclh)) = (some (0xA1#8, 0x3C#16), some []) := by
  decide
theorem test_wr_adr2 : wrAfter (.wrAdr2 0x55#32) (fun x => { x with adr2 := 0x71#8 }) = (some tInst, some []) ∧
    wrAfter (.wrAdr2 0x55#32) (fun x => x.adr2) = (some 0x55#8, some []) := by decide
theorem test_wr_adr3_reserved : wrAfter (.wrAdr3 0x000001FF#32) (fun x => x.adr3) = (some 0xFF#8, some [6]) := by decide
theorem test_wr_mask0_reserved : wrAfter (.wrMask0 0xFF#32) (fun x => x.mask0) = (some 0x7F#7, some [6]) := by decide
theorem test_wr_mask1 : wrAfter (.wrMask1 0x0E#32) (fun x => x.mask1) = (some 0x07#7, some []) := by decide
theorem test_wr_mask2 : wrAfter (.wrMask2 0xFE#32) (fun x => x.mask2) = (some 0x7F#7, some []) := by decide
theorem test_wr_mask2_bit0 : wrAfter (.wrMask2 0x01#32) (fun x => x.mask2) = (some 0#7, some [6]) := by decide
theorem test_wr_mask3 : wrAfter (.wrMask3 0x80#32) (fun x => x.mask3) = (some 0x40#7, some []) := by decide
theorem test_wr_sclh : wrAfter (.wrSclh 0xFFFF#32) (fun x => x.sclh) = (some 0xFFFF#16, some []) := by decide
theorem test_wr_scll_reserved : wrAfter (.wrScll 0x00010000#32) (fun x => x.scll) = (some 0#16, some [6]) := by decide
theorem test_wr_mmctrl : wrAfter (.wrMmctrl 0x07#32) (fun x => x.mmctrl) = (some 0b111#3, some []) := by decide
theorem test_wr_mmctrl_reserved : wrAfter (.wrMmctrl 0x08#32) (fun x => x.mmctrl) = (some 0#3, some [6]) := by decide

/-! The port: 95_test_vectors.md 2.1 and P4, one step each. -/

/-- One step on one input: the fault codes after it. -/
def stepCodes (i : Input) : Option (List Nat) := codes0 (step (tState tInst [i]))

theorem test_port_stat_selected : stepCodes (acc .read 0x40000004#32 4) = some [] := by decide
theorem test_port_databuf_write : stepCodes (acc (.write 0#32) 0x4000002C#32 4) = some [5] := by decide
theorem test_port_misaligned : stepCodes (acc .read 0x4000003E#32 4) = some [2] := by decide
theorem test_port_unmapped : stepCodes (acc .read 0x40000040#32 4) = some [3] := by decide
theorem test_port_misaligned_before_unmapped : stepCodes (acc .read 0x40000041#32 4) = some [2] := by decide
theorem test_port_size_before_all : stepCodes (acc (.write 0#32) 0x40000042#32 2) = some [1] := by decide
theorem test_port_byte_write : stepCodes (acc (.write 0x55#32) 0x40000008#32 1) = some [1] ∧
    (inst0 (step (tState tInst [acc (.write 0x55#32) 0x40000008#32 1]))).map (fun x => x.dat) = some 0x5A#8 := by decide
theorem test_port_conclr_read : stepCodes (acc .read 0x40000018#32 4) = some [4] := by decide
theorem test_port_last_word : inst0 (step (tState tInst [acc (.write 0x80#32) 0x4000003C#32 4])) =
    some { tInst with mask3 := 0x40#7 } := by decide
/-- The family offset is the table's: 0x20 is ADR1, and 0x10 is SCLH (R89, V4). -/
theorem test_port_family_offset : inst0 (step (tState tInst [acc (.write 0x60#32) 0x40000020#32 4])) =
    some { tInst with adr1 := 0x60#8 } ∧ inst0 (step (tState tInst [acc (.write 0x60#32) 0x40000010#32 4])) =
    some { tInst with sclh := 0x60#16 } := by decide
/-- An access to the second region reaches the second instance only (R41). -/
theorem test_port_second_instance : (match step (tState tInst [.access ⟨1, .write 0x77#32, 0x40000088#32, 4⟩]) with
    | .next t => t.insts == [tInst, { tInst1 with dat := 0x77#8 }] && t.sel == 1
    | _ => false) = true := by decide
theorem test_port_fetch : (match step (tState tInst [acc .fetch 0x40000000#32 4]) with
    | .refused .instructionFetch => true
    | _ => false) = true := by decide
theorem test_port_second_agent : (match step (tState tInst [acc .read 0x40000080#32 4]) with
    | .refused .secondBusAgent => true
    | _ => false) = true := by decide
theorem test_port_no_such_instance : (match step (tState tInst [.reset 2]) with
    | .refused .noSuchInstance => true
    | _ => false) = true := by decide
theorem test_idle : (match step (tState tInst []) with
    | .next t => t == tState tInst []
    | _ => false) = true := by decide

/-! The engine: 95_test_vectors.md 2.6. -/

/-- One step on one engine event, from a given CON. -/
def engAfter (e : EngineEvent) (c : Con) : Option Instance := inst0 (step (tState { tInst with con := c } [.engine 0 e]))

theorem test_set_si : (engAfter .setSI (tCon false false false false true)).map (fun x => (x.con.conval, x.irq)) =
    some (0x48#32, true) := by decide
theorem test_set_si_coalesces : (engAfter .setSI (tCon false true false false true)).map (fun x => x.con.conval) =
    some 0x48#32 := by decide
theorem test_clear_sto : (engAfter .clearSTO (tCon false false true false true)).map (fun x => x.con.conval) =
    some 0x40#32 := by decide
theorem test_clear_sta : (engAfter .clearSTA (tCon false false false true true)).map (fun x => x.con.conval) =
    some 0x40#32 := by decide
theorem test_set_stat : (engAfter (.setStat 0x1F#5) tInst.con).map (fun x => x.placed .stat) = some 0xF8#32 := by decide
theorem test_load_dat : engAfter (.loadDAT 0x3C#8) tInst.con = some { tInst with dat := 0x3C#8 } := by decide
theorem test_load_databuf : engAfter (.loadDATABUF 0x42#8) tInst.con = some { tInst with databuf := 0x42#8 } := by decide
/-- The second instance is gated and disabled: its engine's event does not occur (R122). -/
theorem test_gated_event : (match step (tState tInst [.engine 1 .setSI]) with
    | .next t => t == tState tInst []
    | _ => false) = true := by decide

/-! Reset (R148), the functions of 46_field_access.md (95_test_vectors.md V1 to V4 and 2.7), and the syntax. -/

theorem test_reset_event :
    (inst0 (step (tState { tInst with con := tCon true true true true true, faults := FaultSet.empty.add .size } [.reset 0]))).map
      (fun x => (x.con.conval, x.faults.has .size, x.params)) = some (0#32, true, tPar) := by decide
theorem test_reset_event_draws : (inst0 (step (tState tInst [.reset 0]))).map (fun x => x.dat) =
    some ((Config.draw32 1).setWidth 8) := rfl
theorem test_v1 : fieldSet 0#32 ⟨.conset, 5, 1⟩ 1 = .ok 0x20#32 ∧ fieldGet 0x20#32 ⟨.conset, 5, 1⟩ = 1#32 := by decide
theorem test_v2 : (fieldOf .stat .status).map (fieldGet 0xA8#32) = some 21#32 := by decide
theorem test_v3 : (fieldOf .databuf .data).map (fun f => fieldSet 0x12345678#32 f 0xFF) = some (.ok 0x123456FF#32) := by
  decide
theorem test_field_set_bounds : (fieldOf .stat .status).map (fun f => (fieldSet 0#32 f 31, fieldSet 0#32 f 32)) =
    some (.ok 0xF8#32, .error .valueOutOfRange) := by decide
theorem test_field_set_keeps : (fieldOf .adr2 .addr).map (fun f => fieldSet 0xFFFFFFFF#32 f 0) =
    some (.ok 0xFFFFFF01#32) := by decide
/-- The column "high" of R124. -/
theorem test_field_high : (fieldOf .stat .status).map FieldDesc.high = some 7 ∧
    (fieldOf .sclh .sclh).map FieldDesc.high = some 15 := by decide
theorem test_field_get_mask : (fieldOf .mask1 .mask).map (fieldGet 0xFE#32) = some 0x7F#32 := by decide
theorem test_register_address : registerAddress 0x40000000#32 "STAT" = .ok 0x40000004#32 ∧
    registerAddress 0x40000000#32 "MASK3" = .ok 0x4000003C#32 ∧
    registerAddress 0x40000000#32 "FOO" = .error .invalidRegister := by decide
theorem test_family_address : adrAddress 0x40000000#32 2 = .ok 0x40000024#32 ∧
    adrAddress 0x40000000#32 4 = .error .indexOutOfRange ∧ maskAddress 0x40000000#32 (-1) = .error .indexOutOfRange ∧
    adrAddress 0x40000000#32 1 = .ok 0x40000020#32 := by decide
theorem test_requests : requestSet "STO" = .ok 0x10#32 ∧ requestClear "STO" = .error .invalidRegister ∧
    requestClear "I2CEN" = .ok 0x40#32 ∧ requestSet "GC" = .error .invalidRegister := by decide
/-- P1 line 7, and C2: `SET I2CEN|AA` is one write of 0x44, `CLR STO` has no expansion. -/
theorem test_set_clr : expandOp 0 tPar 0#32 (.set ["I2CEN", "AA"]) = .ok [acc (.write 0x44#32) 0x40000000#32 4] ∧
    expandOp 0 tPar 0#32 (.clr ["STA", "SI"]) = .ok [acc (.write 0x28#32) 0x40000018#32 4] ∧
    expandOp 0 tPar 0#32 (.clr ["STO"]) = .error .invalidRegister := by decide
/-- P3 lines 5a and 5b: `FWR ADR[2].ADDR, 0x10` after its read returned 0x71 under the mask. -/
theorem test_fwr : expandOp 0 tPar 0xFFFFFF71#32 (.fwr (.adr 2) "ADDR" 0x10) =
    .ok [acc .read 0x40000024#32 4, acc (.write 0x21#32) 0x40000024#32 4] ∧
    expandOp 0 tPar 0#32 (.fwr (.name "STAT") "STATUS" 1) = .error .invalidRegister := by decide

/-! Placing an access. -/

theorem test_place_and_run_write : inst0 (step ((tState tInst []).withFetchWord 48 (0x148 + 0xA0 * 2 ^ 16))) =
    some { tInst with dat := 0xA0#8 } := by decide
theorem test_place_on_reset : (match step (State.reset.withFetchWord 9 0x140) with
    | .next t => t.inputs.isEmpty && t.rdata.isNone
    | _ => false) = true := by decide

/-! Witnesses: for each statement with hypotheses, a state and operands that meet them together. -/

/-- The hypothesis of ReadStatReturnsStatusCode to WriteClockAndMonitorStoreBits, and of ClearingSiDropsTheInterrupt. -/
theorem witness_selected_instance : (tState tInst []).insts[(tState tInst []).sel]? = some tInst := rfl

theorem witness_ResetClearsEveryControlBit : ∃ t y, step (tState tInst [.reset 0]) = .next t ∧ t.insts[0]? = some y :=
  ⟨_, _, rfl, rfl⟩
theorem witness_FaultsStartEmptyAndSurviveReset : ∃ t y, step (tState tInst [.reset 0]) = .next t ∧
    (tState tInst [.reset 0]).insts[0]? = some tInst ∧ t.insts[0]? = some y := ⟨_, _, rfl, rfl, rfl⟩
theorem witness_ResetEventAppliesResetValues : (tState tInst [.reset 0]).inputs = .reset 0 :: [] ∧
    (tState tInst [.reset 0]).insts[0]? = some tInst := ⟨rfl, rfl⟩
theorem witness_ReadOfWriteOnlyRegisterFaults :
    (Instr.rdConset = .rdConset ∨ Instr.rdConset = .rdConclr) ∧ (Instr.rdConclr = .rdConset ∨ Instr.rdConclr = .rdConclr) ∧
    (tState tInst []).insts[(tState tInst []).sel]? = some tInst := ⟨.inl rfl, .inr rfl, rfl⟩
theorem witness_WriteOfReadOnlyRegisterFaults :
    (Instr.wrStat 0 = .wrStat 0 ∨ Instr.wrStat 0 = .wrDatabuf 0) ∧
    (Instr.wrDatabuf 0 = .wrStat 0 ∨ Instr.wrDatabuf 0 = .wrDatabuf 0) ∧
    (tState tInst []).insts[(tState tInst []).sel]? = some tInst := ⟨.inl rfl, .inr rfl, rfl⟩

/-- Two states that agree on DAT and on the draw and differ in the rest. -/
theorem witness_ReadDataDependsOnItsRegisterOnly : ∃ t t', Instr.rdDat.wdata? = none ∧
    (tState tInst []).insts[0]? = some tInst ∧ (tState { tInst with sclh := 0#16 } []).insts[0]? = some { tInst with sclh := 0#16 } ∧
    tInst.placed .dat = ({ tInst with sclh := 0#16 } : Instance).placed .dat ∧
    exec .rdDat (tState tInst []) = .next t ∧ exec .rdDat (tState { tInst with sclh := 0#16 } []) = .next t' :=
  ⟨_, _, rfl, rfl, rfl, rfl, rfl, rfl⟩
/-- A write of DAT seen at another register, and a write of CONSET at a register that is no view of CON. -/
theorem witness_WriteRoutesToItsRegisterOnly : ∃ t t' y y', exec (.wrDat 1#32) (tState tInst []) = .next t ∧
    t.insts[0]? = some y ∧ RegName.sclh ≠ Instr.reg (.wrDat 1#32) ∧
    exec (.wrConset 4#32) (tState tInst []) = .next t' ∧ t'.insts[0]? = some y' ∧
    RegName.sclh ≠ Instr.reg (.wrConset 4#32) ∧ RegName.sclh ≠ .conclr :=
  ⟨_, _, _, _, rfl, rfl, by decide, rfl, rfl, by decide, by decide⟩
/-- One access that keeps the contract and one of each kind that breaks it. -/
theorem witness_FaultRecordedExactlyOnBrokenContract :
    keepsContract (.wrMask0 0xFE#32) = true ∧ keepsContract (.wrMask0 0xFF#32) = false ∧
    keepsContract .rdConset = false ∧ keepsContract (.wrDatabuf 0#32) = false ∧ keepsContract .rdDat = true ∧
    ∃ t y, exec (.wrMask0 0xFF#32) (tState tInst []) = .next t ∧ t.insts[0]? = some y :=
  ⟨by decide, by decide, by decide, by decide, by decide, _, _, rfl, rfl⟩
theorem witness_RepeatedWriteLeavesSameState : (Instr.wrConset 4#32).wdata?.isSome = true ∧
    ∃ t, exec (.wrConset 4#32) (tState tInst []) = .next t := ⟨rfl, _, rfl⟩
theorem witness_RepeatedReadReturnsSameDefinedBits : ∃ t u v v', Instr.rdStat.wdata? = none ∧
    exec .rdStat (tState tInst []) = .next t ∧ exec .rdStat t = .next u ∧ t.rdata = some v ∧ u.rdata = some v' :=
  ⟨_, _, _, _, rfl, rfl, rfl, rfl, rfl⟩
/-- Each of the twelve reads the statement has a clause for. -/
theorem witness_EngineSeesWhatSoftwareReads :
    ∀ i ∈ [Instr.rdDat, .rdAdr0, .rdAdr1, .rdAdr2, .rdAdr3, .rdMask0, .rdMask1, .rdMask2, .rdMask3, .rdSclh, .rdScll,
      .rdMmctrl], ∃ t v, exec i (tState tInst []) = .next t ∧ t.rdata = some v := by
  intro i hi
  fin_cases hi <;> exact ⟨_, _, rfl, rfl⟩
theorem witness_DecodeOfEncodeIsTheInstruction : Instr.wf (.wrMask3 0xFFFFFFFF#32) = true := by decide
theorem witness_DecodedBytesAreTheEncoding : decode [0x3C#8, 0x01#8, 0x99#8] = .ok (.rdMask3, [0x99#8]) := by decide
/-- The first and the last offset of the window. -/
theorem witness_AlignedOffsetSelectsOneRegister : (0 : Nat) < 0x40 ∧ 0 % 4 = 0 ∧ 0x3C < 0x40 ∧ 0x3C % 4 = 0 := by decide

/-- The test platform is legal. -/
theorem tState_inv (inputs : List Input) (x : Instance) (h : x.params = tPar) : (tState x inputs).Inv := by
  refine ⟨?_, Nat.zero_lt_succ _⟩
  simp only [tState, List.map_cons, List.map_nil, h]
  decide

/-- An access of the test agent to the first region arrives there. -/
theorem arrives_first (kind : AccessKind) (addr : Word) (size : Nat)
    (h : 0x40000000 ≤ addr.toNat ∧ addr.toNat < 0x40000080) :
    Arrives (tState tInst [acc kind addr size]) ⟨0, kind, addr, size⟩ [] 0 tInst :=
  ⟨tState_inv _ _ rfl, rfl, rfl, rfl, h.1, h.2⟩

theorem witness_StepRunsTheDecodedInstruction :
    Arrives (tState tInst [acc (.write 7#32) 0x4000003C#32 4]) ⟨0, .write 7#32, 0x4000003C#32, 4⟩ [] 0 tInst ∧
    offIn tInst ⟨0, .write 7#32, 0x4000003C#32, 4⟩ = 0x3C ∧
    decode (accessBytes 4 0x3C (.write 7#32)) = .ok (.wrMask3 7#32, []) :=
  ⟨arrives_first _ _ _ (by decide), by decide, by decide⟩
theorem witness_PlacedAccessRunsNext : (tState tInst []).Inv ∧ decodeAccess 0x148#9 7#32 = .ok (.wrDat 7#32) :=
  ⟨tState_inv _ _ rfl, by decide⟩
/-- A legal access and an illegal one. -/
theorem witness_EveryAccessCompletesInOneStep :
    Arrives (tState tInst [acc .read 0x40000000#32 4]) ⟨0, .read, 0x40000000#32, 4⟩ [] 0 tInst ∧
    Arrives (tState tInst [acc (.write 1#32) 0x4000007F#32 3]) ⟨0, .write 1#32, 0x4000007F#32, 3⟩ [] 0 tInst :=
  ⟨arrives_first _ _ _ (by decide), arrives_first _ _ _ (by decide)⟩
/-- Sizes 0, 3 and 5, at an aligned, a misaligned and an unmapped offset. -/
theorem witness_WrongSizeRecordsSizeFault :
    Arrives (tState tInst [acc .read 0x40000000#32 3]) ⟨0, .read, 0x40000000#32, 3⟩ [] 0 tInst ∧
    Arrives (tState tInst [acc .read 0x40000001#32 0]) ⟨0, .read, 0x40000001#32, 0⟩ [] 0 tInst ∧
    Arrives (tState tInst [acc (.write 1#32) 0x4000007F#32 5]) ⟨0, .write 1#32, 0x4000007F#32, 5⟩ [] 0 tInst :=
  ⟨arrives_first _ _ _ (by decide), arrives_first _ _ _ (by decide), arrives_first _ _ _ (by decide)⟩
/-- Offsets 0x01, 0x3F and 0x41. -/
theorem witness_MisalignedAccessRecordsFault :
    Arrives (tState tInst [acc .read 0x40000001#32 4]) ⟨0, .read, 0x40000001#32, 4⟩ [] 0 tInst ∧
    Arrives (tState tInst [acc .read 0x4000003F#32 4]) ⟨0, .read, 0x4000003F#32, 4⟩ [] 0 tInst ∧
    Arrives (tState tInst [acc (.write 1#32) 0x40000041#32 4]) ⟨0, .write 1#32, 0x40000041#32, 4⟩ [] 0 tInst ∧
    offIn tInst ⟨0, .write 1#32, 0x40000041#32, 4⟩ % 4 ≠ 0 :=
  ⟨arrives_first _ _ _ (by decide), arrives_first _ _ _ (by decide), arrives_first _ _ _ (by decide), by decide⟩
/-- Offset 0x40, the first unmapped one, and 0x7C, the last of the region. -/
theorem witness_UnmappedOffsetRecordsFault :
    Arrives (tState tInst [acc .read 0x40000040#32 4]) ⟨0, .read, 0x40000040#32, 4⟩ [] 0 tInst ∧
    offIn tInst ⟨0, .read, 0x40000040#32, 4⟩ = 0x40 ∧
    Arrives (tState tInst [acc (.write 1#32) 0x4000007C#32 4]) ⟨0, .write 1#32, 0x4000007C#32, 4⟩ [] 0 tInst ∧
    offIn tInst ⟨0, .write 1#32, 0x4000007C#32, 4⟩ = 0x7C :=
  ⟨arrives_first _ _ _ (by decide), by decide, arrives_first _ _ _ (by decide), by decide⟩
/-- The last address below the first region and the first above the second. -/
theorem witness_AccessOutsideEveryRegionTouchesNothing :
    (∀ x ∈ (tState tInst []).insts, (0x3FFFFFFF#32).toNat < x.params.base.toNat ∨
      x.params.base.toNat + x.params.regionSize ≤ (0x3FFFFFFF#32).toNat) ∧
    (∀ x ∈ (tState tInst []).insts, (0x40000100#32).toNat < x.params.base.toNat ∨
      x.params.base.toNat + x.params.regionSize ≤ (0x40000100#32).toNat) := by decide
theorem witness_OneAccessRecordsAtMostOneFault : ∃ t, step (tState tInst [acc .read 0x40000041#32 4]) = .next t :=
  ⟨_, rfl⟩
theorem witness_InstructionFetchIsRefused :
    Arrives (tState tInst [acc .fetch 0x40000000#32 4]) ⟨0, .fetch, 0x40000000#32, 4⟩ [] 0 tInst :=
  arrives_first _ _ _ (by decide)
theorem witness_SecondBusAgentIsRefused : (tState tInst [acc .read 0x40000080#32 4]).Inv ∧
    (tState tInst [acc .read 0x40000080#32 4]).insts[1]? = some tInst1 ∧
    tInst1.params.base.toNat ≤ (0x40000080#32).toNat ∧
    (0x40000080#32).toNat < tInst1.params.base.toNat + tInst1.params.regionSize ∧ 0 ≠ tInst1.params.owner :=
  ⟨tState_inv _ _ rfl, rfl, by decide, by decide, by decide⟩
/-- One read of each outcome: none recorded, write-only, size, misaligned, unmapped. -/
theorem witness_ReadStepChangesOnlyFaults :
    (∃ t, step (tState tInst [acc .read 0x40000004#32 4]) = .next t ∧ t.insts = (tState tInst []).insts) ∧
    (∀ p ∈ [(0x40000000#32, 4, FaultKind.writeOnlyRead), (0x40000008#32, 1, .size), (0x40000041#32, 4, .misaligned),
        (0x40000040#32, 4, .unmapped)],
      ∃ t, step (tState tInst [acc .read p.1 p.2.1]) = .next t ∧
        t.insts[0]? = some { tInst with faults := tInst.faults.add p.2.2 }) := by
  refine ⟨⟨_, rfl, rfl⟩, ?_⟩
  intro p hp
  fin_cases hp <;> exact ⟨_, rfl, rfl⟩

/-- Each of the six events, not gated. -/
theorem witness_EngineEventsChangeTheirTargetOnly : ∀ e : EngineEvent,
    (tState tInst [.engine 0 e]).insts[0]? = some tInst ∧ (tInst.params.engineGated = true → tInst.con.i2cen = true) ∧
    (tState tInst [.engine 0 e]).inputs = .engine 0 e :: [] := fun _ => ⟨rfl, by decide, rfl⟩
theorem witness_GatedEngineChangesNothingWhileDisabled :
    (tState tInst [.engine 1 .setSI]).insts[1]? = some tInst1 ∧ tInst1.params.engineGated = true ∧
    tInst1.con.i2cen = false := ⟨rfl, rfl, rfl⟩
theorem witness_EngineKeepsConfiguration : ∃ t, step (tState tInst [.engine 0 .setSI]) = .next t := ⟨_, rfl⟩
/-- The hypotheses of both races. -/
theorem witness_Races : (tState tInst []).Inv ∧ (tState tInst []).insts[0]? = some tInst ∧
    (tInst.params.engineGated = true → tInst.con.i2cen = true) := ⟨tState_inv _ _ rfl, rfl, by decide⟩

theorem witness_NoStepRemovesAFault : ∃ t, step (tState { tInst with faults := FaultSet.empty.add .size } [.reset 0]) = .next t ∧
    (FaultSet.empty.add .size).has .size = true := ⟨_, rfl, rfl⟩
theorem witness_BadStateNeverBecomesGood : ∃ t, (tState { tInst with faults := FaultSet.empty.add .size } [.reset 0]).good = false ∧
    step (tState { tInst with faults := FaultSet.empty.add .size } [.reset 0]) = .next t := ⟨_, by decide, rfl⟩
/-- STO goes from 1 to 0, by ClearSTO and by a reset. -/
theorem witness_OnlyEngineOrResetClearsSto : ∀ i : Input, i = .engine 0 .clearSTO ∨ i = .reset 0 →
    ∃ t y, step (tState { tInst with con := tCon false false true false false } [i]) = .next t ∧ t.insts[0]? = some y ∧
      y.con.sto = false := by
  rintro i (rfl | rfl)
  · exact ⟨_, _, rfl, rfl, rfl⟩
  · exact ⟨_, _, rfl, rfl, rfl⟩
/-- SI goes from 1 to 0, by CONCLR bit 3 and by a reset. -/
theorem witness_OnlyConclrOrResetClearsSi : ∀ i : Input, i = acc (.write 8#32) 0x40000018#32 4 ∨ i = .reset 0 →
    ∃ t y, step (tState { tInst with con := tCon false true false false false } [i]) = .next t ∧ t.insts[0]? = some y ∧
      y.con.si = false := by
  rintro i (rfl | rfl)
  · exact ⟨_, _, rfl, rfl, rfl⟩
  · exact ⟨_, _, rfl, rfl, rfl⟩
/-- SI goes from 0 to 1, by CONSET bit 3 (at BASE itself) and by SetSI. -/
theorem witness_OnlyConsetOrEngineSetsSi : ∀ i : Input, i = acc (.write 8#32) 0x40000000#32 4 ∨ i = .engine 0 .setSI →
    ∃ t y, step (tState tInst [i]) = .next t ∧ t.insts[0]? = some y ∧ tInst.con.si = false ∧ y.con.si = true := by
  rintro i (rfl | rfl)
  · exact ⟨_, _, rfl, rfl, rfl, rfl⟩
  · exact ⟨_, _, rfl, rfl, rfl, rfl⟩
/-- STATC and DATABUF change. -/
theorem witness_OnlyEngineOrResetChangesReadOnlyRegisters :
    (∃ t y, step (tState tInst [.engine 0 (.setStat 3#5)]) = .next t ∧ t.insts[0]? = some y ∧ y.statc ≠ tInst.statc) ∧
    (∃ t y, step (tState tInst [.engine 0 (.loadDATABUF 3#8)]) = .next t ∧ t.insts[0]? = some y ∧
      y.databuf ≠ tInst.databuf) :=
  ⟨⟨_, _, rfl, rfl, by decide⟩, ⟨_, _, rfl, rfl, by decide⟩⟩
/-- An input for the first instance is not for the second. -/
theorem witness_InstancesAreIndependent : ∃ t, step (tState tInst [acc (.write 8#32) 0x40000000#32 4]) = .next t ∧
    ¬ (acc (.write 8#32) 0x40000000#32 4).isFor 1 tInst1 ∧ ¬ (Input.reset 0).isFor 1 tInst1 :=
  ⟨_, rfl, by simp [acc, Input.isFor, tInst1], by simp [Input.isFor]⟩
theorem witness_StepKeepsThePlatform : (tState tInst [.reset 0]).Inv ∧ ∃ t, step (tState tInst [.reset 0]) = .next t :=
  ⟨tState_inv _ _ rfl, _, rfl⟩

/-- The largest value of STATUS and the first too large. -/
theorem witness_FieldSetGetRoundTrip : fieldOf .stat .status = some ⟨.stat, 3, 5⟩ ∧ 31 < 2 ^ 5 ∧ 2 ^ 5 ≤ 32 := by decide
theorem witness_FieldGetIgnoresReservedBits : fieldOf .mask3 .mask = some ⟨.mask3, 1, 7⟩ := rfl
theorem witness_FieldsPartitionTheDefinedMask : fieldOf .mmctrl .mmEna = some ⟨.mmctrl, 0, 1⟩ ∧
    fieldOf .mmctrl .matchAll = some ⟨.mmctrl, 2, 1⟩ := ⟨rfl, rfl⟩
/-- A name of each kind, and the indices at both ends. -/
theorem witness_RegisterAddressesFollowTheTable : ("MASK3", 0x3C#32) ∈ namedOffsets ∧
    (∀ p ∈ namedOffsets, "FOO" ≠ p.1) ∧ ((-1 : Int) < 0 ∨ 3 < (-1 : Int)) ∧ ((4 : Int) < 0 ∨ 3 < (4 : Int)) := by decide
theorem witness_RequestsChangeOneControlBit : requestSet "STO" = .ok 0x10#32 ∧ requestClear "SI" = .ok 0x08#32 ∧
    ("FOO" ≠ "AA" ∧ "FOO" ≠ "SI" ∧ "FOO" ≠ "STO" ∧ "FOO" ≠ "STA" ∧ "FOO" ≠ "I2CEN") ∧
    (tState tInst []).insts[(tState tInst []).sel]? = some tInst := ⟨by decide, by decide, by decide, rfl⟩
theorem witness_FieldWriteKeepsTheOtherBits : isReadWrite .adr2 = true ∧ fieldOf .adr2 .addr = some ⟨.adr2, 1, 7⟩ ∧
    ∃ t seen w, exec (readOf .adr2) (tState tInst []) = .next t ∧ t.rdata = some seen ∧
      fwrWord ⟨.adr2, 1, 7⟩ seen 0x10 = .ok w :=
  ⟨rfl, rfl, _, _, _, rfl, rfl, rfl⟩

end Sys2Proof.Tests
end

/-! PROOF. The statements about which faults are recorded and that a recorded fault stays (R11, R134, R135). -/

namespace Sys2Proof.Machine

/-! What one access does to the fault set, by kind of access and register. -/

/-- R81, R82: of the reads only those of the two write-only registers record a fault. -/
theorem instrEffect_readOf_faults (r : RegName) (x : Instance) :
    (instrEffect (readOf r) x).faults =
      if r = .conset ∨ r = .conclr then x.faults.add .writeOnlyRead else x.faults := by
  cases r <;> rfl

/-- R75, R79, R80, R84, R88: a write of a read-only register always records a fault, any other write only for a 1 in a
reserved bit. -/
theorem instrEffect_writeOf_faults (r : RegName) (w : Word) (x : Instance) :
    (instrEffect (writeOf r w) x).faults =
      if r = .stat ∨ r = .databuf then x.faults.add .readOnlyWrite
      else if reservedSet r w then x.faults.add .reservedWrite else x.faults := by
  cases r <;> simp [instrEffect, writeOf]

/-- A read keeps the contract exactly if its register is not write-only. -/
theorem keepsContract_readOf (r : RegName) :
    keepsContract (readOf r) = !decide (r = .conset ∨ r = .conclr) := by
  cases r <;> rfl

/-- A write keeps the contract exactly if its register is not read-only and no reserved bit is written 1. -/
theorem keepsContract_writeOf (r : RegName) (w : Word) :
    keepsContract (writeOf r w) = (!decide (r = .stat ∨ r = .databuf) && !reservedSet r w) := by
  cases r <;> simp [keepsContract, Instr.reg, Instr.wdata?, writeOf]

/-- The kind an access records when it breaks the usage contract (R134, codes 4 to 6). -/
def brokenContractFault (i : Instr) : FaultKind :=
  if i.wdata? = none then .writeOnlyRead
  else if i.reg = .stat ∨ i.reg = .databuf then .readOnlyWrite
  else .reservedWrite

/-- The fault set after an access, from the contract alone. -/
theorem instrEffect_faults (i : Instr) (x : Instance) :
    (instrEffect i x).faults =
      if keepsContract i then x.faults else x.faults.add (brokenContractFault i) := by
  obtain ⟨-, hi⟩ | ⟨w, -, hi⟩ := instr_eq i
  · rw [hi, instrEffect_readOf_faults, keepsContract_readOf]
    by_cases hr : i.reg = .conset ∨ i.reg = .conclr <;> simp [hr, brokenContractFault]
  · rw [hi, instrEffect_writeOf_faults, keepsContract_writeOf]
    by_cases hr : i.reg = .stat ∨ i.reg = .databuf
    · simp [hr, brokenContractFault]
    · cases reservedSet i.reg w <;> simp [hr, brokenContractFault]

/-- What an answering instruction leaves where the selected instance was. -/
theorem exec_next_at_sel {i : Instr} {s t : State} {x : Instance} (h : exec i s = .next t)
    (hx : s.insts[s.sel]? = some x) : t.insts[s.sel]? = some (instrEffect i x) := by
  obtain ⟨z, hz, rfl⟩ := exec_next h
  obtain rfl : z = x := Option.some.inj (hz.symm.trans hx)
  exact List.getElem?_set_self (List.getElem?_eq_some_iff.mp hx).1

/-! What one step does to the fault set of each instance. -/

/-- R11, R37: over a step an instance's fault set stays or gains one kind, whatever the input. -/
theorem step_faults_at {s t : State} {m : Nat} {x : Instance} (h : step s = .next t) (hx : s.insts[m]? = some x) :
    ∃ y, t.insts[m]? = some y ∧ (y.faults = x.faults ∨ ∃ k, y.faults = x.faults.add k) := by
  obtain hsame | ⟨n, z, y, hz, ht, hcase⟩ := step_instances h
  · exact ⟨x, hsame ▸ hx, .inl rfl⟩
  · by_cases hm : n = m
    · subst hm
      obtain rfl : z = x := Option.some.inj (hz.symm.trans hx)
      have hlt : n < s.insts.length := (List.getElem?_eq_some_iff.mp hx).1
      refine ⟨y, by rw [ht, List.getElem?_set_self hlt], ?_⟩
      obtain ⟨_, _, i, _, _, _, _, _, _, rfl⟩ | ⟨_, _, k, _, _, _, rfl⟩ | ⟨e, _, _, _, rfl⟩ | ⟨_, _, rfl⟩ := hcase
      · rw [instrEffect_faults]
        cases keepsContract i
        · exact .inr ⟨_, rfl⟩
        · exact .inl rfl
      · exact .inr ⟨k, rfl⟩
      · exact .inl (applyEvent_faults e z)
      · exact .inl rfl
    · exact ⟨x, by rw [ht, List.getElem?_set_ne hm, hx], .inl rfl⟩

/-- R31: a kind recorded in an instance is still recorded after a step. -/
theorem step_keeps_fault {s t : State} {m : Nat} {x : Instance} (h : step s = .next t) (hx : s.insts[m]? = some x) :
    ∃ y, t.insts[m]? = some y ∧ ∀ k, x.faults.has k = true → y.faults.has k = true := by
  obtain ⟨y, hy, hf | ⟨j, hf⟩⟩ := step_faults_at h hx
  · exact ⟨y, hy, fun k hk => hf ▸ hk⟩
  · exact ⟨y, hy, fun k hk => by simp [hf, hk]⟩

/-! When a state is not good. -/

/-- A fault set is not empty exactly if it has a kind. -/
theorem FaultSet.ne_empty_iff (f : FaultSet) : f ≠ FaultSet.empty ↔ ∃ k, f.has k = true := by
  constructor
  · intro hne
    by_contra hno
    exact hne (FaultSet.ext_has f _ fun k => by simpa using fun hk => hno ⟨k, hk⟩)
  · rintro ⟨k, hk⟩ rfl
    simp at hk

/-- R11: a state is not good exactly if some instance has some kind recorded. -/
theorem State.good_eq_false_iff (s : State) :
    s.good = false ↔ ∃ (m : Nat) (x : Instance), s.insts[m]? = some x ∧ ∃ k, x.faults.has k = true := by
  simp only [State.good, List.all_eq_false, beq_iff_eq, ← ne_eq, FaultSet.ne_empty_iff, List.mem_iff_getElem?]
  exact ⟨fun ⟨x, ⟨m, hx⟩, hk⟩ => ⟨m, x, hx, hk⟩, fun ⟨m, x, hx, hk⟩ => ⟨x, ⟨m, hx⟩, hk⟩⟩

/-- Settles O20: the fault set after an access is a function of the contract (`instrEffect_faults`). -/
theorem faultRecordedExactlyOnBrokenContract : Obligations.FaultRecordedExactlyOnBrokenContract := by
  intro i s t x y h hx hy
  obtain rfl : instrEffect i x = y := Option.some.inj ((exec_next_at_sel h hx).symm.trans hy)
  rw [instrEffect_faults]
  exact ⟨fun hk => if_pos hk, fun hk => if_neg (by simp [hk])⟩

/-- Settles O47: the kind that makes the state bad is kept in its instance (`step_keeps_fault`). -/
theorem badStateNeverBecomesGood : Obligations.BadStateNeverBecomesGood := by
  intro s t hbad h
  obtain ⟨m, x, hx, k, hk⟩ := s.good_eq_false_iff.mp hbad
  obtain ⟨y, hy, hkeep⟩ := step_keeps_fault h hx
  exact t.good_eq_false_iff.mpr ⟨m, y, hy, k, hkeep k hk⟩

end Sys2Proof.Machine

/-! PROOF. The statements about what a reset leaves (R34 to R37), what can change FAULTS, STO, STATC and DATABUF (R16, R22,
R31, R38), and that a placed access runs next (R30). -/

namespace Sys2Proof.Machine

/-! What one step does to one instance. -/

/-- What a step can make of instance `m`, that was `x`: one constructor for each cause, with what the cause says of the
input (`step_instances`). -/
inductive InstanceStep (s : State) (m : Nat) (x : Instance) : Instance → Prop
  | stays : InstanceStep s m x x
  | instr {a rest i bs} (input : s.inputs = .access a :: rest) (region : findRegion a.addr s.insts 0 = some (m, x))
      (agent : a.agent = x.params.owner) (check : portCheck a.size (offsetOf x.params a.addr) = none)
      (decoded : decode (accessBytes a.size (offsetOf x.params a.addr) a.kind) = .ok (i, bs)) :
      InstanceStep s m x (instrEffect i x)
  | portFault {a rest k} (input : s.inputs = .access a :: rest) (region : findRegion a.addr s.insts 0 = some (m, x))
      (check : portCheck a.size (offsetOf x.params a.addr) = some k) : InstanceStep s m x (x.raise k)
  | engine {e rest} (input : s.inputs = .engine m e :: rest) (mayAct : x.engineMayAct = true) :
      InstanceStep s m x (applyEvent e x)
  | reset {rest} (input : s.inputs = .reset m :: rest) :
      InstanceStep s m x (Instance.atReset x.params s.draws x.faults)

/-- Every step makes of every instance one of these. -/
theorem step_instance_at {s t : State} {m : Nat} {x y : Instance} (h : step s = .next t) (hx : s.insts[m]? = some x)
    (hy : t.insts[m]? = some y) : InstanceStep s m x y := by
  obtain hsame | ⟨n, z, z', hz, ht, hcase⟩ := step_instances h
  · obtain rfl : x = y := Option.some.inj (hx.symm.trans (hsame ▸ hy))
    exact .stays
  · by_cases hm : n = m
    · subst hm
      obtain rfl : z = x := Option.some.inj (hz.symm.trans hx)
      have hlt : n < s.insts.length := (List.getElem?_eq_some_iff.mp hx).1
      rw [ht, List.getElem?_set_self hlt] at hy
      obtain rfl : z' = y := Option.some.inj hy
      obtain ⟨_, _, _, _, hin, hf, ha, hk, hd, rfl⟩ | ⟨_, _, _, hin, hf, hk, rfl⟩ | ⟨_, _, hin, hm, rfl⟩ |
        ⟨_, hin, rfl⟩ := hcase
      · exact .instr hin hf ha hk hd
      · exact .portFault hin hf hk
      · exact .engine hin hm
      · exact .reset hin
    · rw [ht, List.getElem?_set_ne hm] at hy
      obtain rfl : x = y := Option.some.inj (hx.symm.trans hy)
      exact .stays

/-! What an access and an engine event leave of CON, STATC and DATABUF. -/

/-- No read changes CON. -/
@[simp] theorem instrEffect_readOf_con (r : RegName) (x : Instance) : (instrEffect (readOf r) x).con = x.con := by
  cases r <;> rfl

/-- R77, R79, R80: of the writes only those of the two views of CON change it. -/
theorem instrEffect_writeOf_con (r : RegName) (w : Word) (x : Instance) :
    (instrEffect (writeOf r w) x).con =
      if r = .conset then x.con.setBy w else if r = .conclr then x.con.clearBy w else x.con := by
  cases r <;> simp [instrEffect, writeOf]

/-- R16: no access clears STO: CONSET can only set it, and it is no bit of CONCLR. -/
theorem instrEffect_keeps_sto (i : Instr) {x : Instance} (hx : x.con.sto = true) : (instrEffect i x).con.sto = true := by
  obtain ⟨-, hi⟩ | ⟨w, -, hi⟩ := instr_eq i
  · rw [hi, instrEffect_readOf_con, hx]
  · rw [hi, instrEffect_writeOf_con]
    split
    · simp [hx]
    · split
      · simp [hx]
      · exact hx

/-- R22: no access changes STATC. -/
@[simp] theorem instrEffect_statc (i : Instr) (x : Instance) : (instrEffect i x).statc = x.statc := by
  cases i <;> simp [instrEffect]

/-- R87, R88: no access changes DATABUF. -/
@[simp] theorem instrEffect_databuf (i : Instr) (x : Instance) : (instrEffect i x).databuf = x.databuf := by
  cases i <;> simp [instrEffect]

/-- R118: of the engine's events only ClearSTO clears STO. -/
theorem eq_clearSTO_of_applyEvent_sto {e : EngineEvent} {x : Instance} (hx : x.con.sto = true)
    (hy : (applyEvent e x).con.sto = false) : e = .clearSTO := by
  cases e with
  | clearSTO => rfl
  | _ => exact absurd (hx.symm.trans hy) (by decide)

/-- R119: of the engine's events only SetStat changes STATC, to the value it carries. -/
theorem eq_setStat_of_applyEvent_statc {e : EngineEvent} {x : Instance} (h : (applyEvent e x).statc ≠ x.statc) :
    e = .setStat (applyEvent e x).statc := by
  cases e with
  | setStat c => rfl
  | _ => exact absurd rfl h

/-- R121: of the engine's events only LoadDATABUF changes DATABUF, to the byte it carries. -/
theorem eq_loadDATABUF_of_applyEvent_databuf {e : EngineEvent} {x : Instance}
    (h : (applyEvent e x).databuf ≠ x.databuf) : e = .loadDATABUF (applyEvent e x).databuf := by
  cases e with
  | loadDATABUF b => rfl
  | _ => exact absurd rfl h

/-- Settles O46: a step at most adds to each fault set (`step_keeps_fault`). -/
theorem noStepRemovesAFault : Obligations.NoStepRemovesAFault :=
  fun _ _ h _ _ hx => step_keeps_fault h hx

/-- Settles O48: of all a step can make of an instance, only ClearSTO and a reset leave STO at 0 where it was 1. -/
theorem onlyEngineOrResetClearsSto : Obligations.OnlyEngineOrResetClearsSto := by
  intro s t m x y h hx hy hsto hclear
  cases step_instance_at h hx hy with
  | stays => exact absurd (hsto.symm.trans hclear) (by decide)
  | instr => exact absurd ((instrEffect_keeps_sto _ hsto).symm.trans hclear) (by decide)
  | portFault => exact absurd (hsto.symm.trans hclear) (by decide)
  | engine input =>
    obtain rfl := eq_clearSTO_of_applyEvent_sto hsto hclear
    exact ⟨_, .inl input⟩
  | reset input => exact ⟨_, .inr input⟩

/-- Settles O51: of all a step can make of an instance, only the register's own event and a reset change it. -/
theorem onlyEngineOrResetChangesReadOnlyRegisters : Obligations.OnlyEngineOrResetChangesReadOnlyRegisters := by
  intro s t m x y h hx hy
  cases step_instance_at h hx hy with
  | stays => exact ⟨absurd rfl, absurd rfl⟩
  | instr => exact ⟨absurd (instrEffect_statc _ x), absurd (instrEffect_databuf _ x)⟩
  | portFault => exact ⟨absurd rfl, absurd rfl⟩
  | engine input =>
    exact ⟨fun hne => ⟨_, .inl (eq_setStat_of_applyEvent_statc hne ▸ input)⟩,
      fun hne => ⟨_, .inl (eq_loadDATABUF_of_applyEvent_databuf hne ▸ input)⟩⟩
  | reset input => exact ⟨fun _ => ⟨_, .inr input⟩, fun _ => ⟨_, .inr input⟩⟩

/-! Reset. -/

/-- A step performs the input at the head of the list. -/
theorem step_cons {s : State} {i : Input} {rest : List Input} (h : s.inputs = i :: rest) :
    step s = performInput i { s with inputs := rest } := by
  simp [step, h]

/-- The one instance of State.reset. -/
@[simp] theorem mem_reset_insts {x : Instance} :
    x ∈ State.reset.insts ↔ x = Instance.atReset platformAtReset 0 FaultSet.empty := by
  simp [State.reset]

/-- R148: what a RESET step leaves of its instance. -/
theorem step_reset_at {s t : State} {n : Nat} {rest : List Input} (hin : s.inputs = .reset n :: rest)
    (h : step s = .next t) : ∃ x, s.insts[n]? = some x ∧
      t.insts[n]? = some (Instance.atReset x.params s.draws x.faults) := by
  rw [step_cons hin] at h
  obtain ⟨x, hx, rfl⟩ := resetStep_next h
  exact ⟨x, hx, List.getElem?_set_self (List.getElem?_eq_some_iff.mp hx).1⟩

/-- R35, R36: an instance right after reset holds the draws from the first number on. -/
theorem atReset_holdsResetDraws (p : Params) (n : Nat) (f : FaultSet) :
    HoldsResetDraws (Instance.atReset p n f) n := by
  simp [HoldsResetDraws, Instance.atReset]

/-- Settles O1: both kinds of reset leave `Instance.atReset`, whose CON is 0. -/
theorem resetClearsEveryControlBit : Obligations.ResetClearsEveryControlBit := by
  refine ⟨fun x hx => ?_, fun s t n rest y hin h hy => ?_⟩
  · obtain rfl := mem_reset_insts.mp hx
    exact ⟨rfl, rfl, rfl, rfl, rfl⟩
  · obtain ⟨x, -, hy'⟩ := step_reset_at hin h
    obtain rfl := Option.some.inj (hy'.symm.trans hy)
    exact ⟨rfl, rfl, rfl, rfl, rfl⟩

/-- Settles O2: State.reset begins with no kind recorded, and `Instance.atReset` keeps the fault set it is given. -/
theorem faultsStartEmptyAndSurviveReset : Obligations.FaultsStartEmptyAndSurviveReset := by
  refine ⟨fun x hx k => ?_, fun s t n rest x y hin h hx hy => ?_⟩
  · obtain rfl := mem_reset_insts.mp hx
    exact FaultSet.has_empty k
  · obtain ⟨z, hz, hy'⟩ := step_reset_at hin h
    obtain rfl : z = x := Option.some.inj (hz.symm.trans hx)
    obtain rfl := Option.some.inj (hy'.symm.trans hy)
    exact Instance.atReset_faults _ _ _

/-- Settles O4: the instance of State.reset holds the draws from number 0 on. -/
theorem resetStateHoldsDraws : Obligations.ResetStateHoldsDraws := by
  intro x hx
  obtain rfl := mem_reset_insts.mp hx
  exact ⟨0, atReset_holdsResetDraws _ _ _⟩

end Sys2Proof.Machine

/-! PROOF. That a placed access runs next (R30, R54, R68): the region check finds the selected instance, the checks of the
port pass, and the port forms the same access word again. -/

namespace Sys2Proof

/-! The platform. -/

/-- D4: the parts of a legal `REGION_SIZE`. -/
theorem regionSizeOk_iff {n : Nat} :
    regionSizeOk n = true ↔ Config.windowSize ≤ n ∧ n ≤ 2 ^ 32 ∧ n = 2 ^ Nat.log2 n := by
  simp [regionSizeOk, and_assoc]

/-- The window lies in the region. -/
theorem Params.window_le {p : Params} (h : p.wf = true) : 0x40 ≤ p.regionSize := by
  simp only [Params.wf, Bool.and_eq_true] at h
  exact (regionSizeOk_iff.mp h.1).1

/-- D4: no region wraps around the end of the address space. -/
theorem Params.region_le {p : Params} (h : p.wf = true) : p.base.toNat + p.regionSize ≤ 2 ^ 32 := by
  simp only [Params.wf, Bool.and_eq_true, beq_iff_eq] at h
  obtain ⟨hsize, hbase⟩ := h
  obtain ⟨-, hle, hpow⟩ := regionSizeOk_iff.mp hsize
  have hlog : Nat.log2 p.regionSize ≤ 32 := (Nat.pow_le_pow_iff_right (by decide : 1 < 2)).mp (hpow ▸ hle)
  have hspace : p.regionSize ∣ 2 ^ 32 := hpow ▸ Nat.pow_dvd_pow 2 hlog
  have hgap : p.regionSize ≤ 2 ^ 32 - p.base.toNat :=
    Nat.le_of_dvd (Nat.sub_pos_of_lt p.base.isLt) (Nat.dvd_sub hspace (Nat.dvd_of_mod_eq_zero hbase))
  have := p.base.isLt
  omega

/-- R41: the list's regions are pairwise disjoint in Lean's own terms. -/
theorem pairwiseDisjoint_iff {ps : List Params} :
    pairwiseDisjoint ps = true ↔ ps.Pairwise fun p q => p.disjoint q = true := by
  induction ps with
  | nil => simp [pairwiseDisjoint]
  | cons p ps ih => simp [pairwiseDisjoint, ih]

/-- The parts of a legal platform. -/
theorem placementsOk_iff {ps : List Params} :
    placementsOk ps = true ↔ ps ≠ [] ∧ (∀ p ∈ ps, p.wf = true) ∧ ps.Pairwise fun p q => p.disjoint q = true := by
  simp [placementsOk, pairwiseDisjoint_iff, and_assoc]

/-! The access word and the parts the port forms it from. -/

/-- R60: an access word that decodes has SZ = 10 and OFF[1:0] = 00. -/
theorem decodeAccess_ok {aw : BitVec 9} {w : Word} {i : Instr} (h : decodeAccess aw w = .ok i) :
    awSize aw = 0b10#2 ∧ offLow (awOff aw) = 0b00#2 := by
  unfold decodeAccess at h
  split at h
  · cases h
  · next hs =>
    split at h
    · cases h
    · next ho => exact ⟨not_not.mp hs, not_not.mp ho⟩

/-- A read ignores the write data. -/
theorem decodeAccess_read {aw : BitVec 9} (h : awWrite aw = false) (w w' : Word) :
    decodeAccess aw w = decodeAccess aw w' := by
  simp [decodeAccess, h]

/-- OFF[1:0] = 00 says that the offset is a multiple of four. -/
theorem toNat_mod_four_of_offLow {off : BitVec 6} (h : offLow off = 0b00#2) : off.toNat % 4 = 0 := by
  simpa [offLow, BitVec.extractLsb'_toNat] using congrArg BitVec.toNat h

/-- R54: forming the word from the parts of a word of SZ = 10 gives the word again. -/
theorem formAccessWord_parts {aw : BitVec 9} (h : awSize aw = 0b10#2) :
    formAccessWord 4 (awWrite aw) (awOff aw).toNat = aw := by
  revert aw; decide

/-- The bytes of a read's access word decode to what the word does. -/
theorem decode_bytesOfAw {aw : BitVec 9} {w : Word} {i : Instr} (hw : awWrite aw = false)
    (h : decodeAccess aw w = .ok i) : decode (bytesOfAw aw) = .ok (i, []) := by
  simp [decode, bytesOfAw, hw, decodeAccess_read hw 0#32 w, h]

/-- The bytes of a write's access word and of its WDATA decode to what the two do. -/
theorem decode_bytesOfAw_bytesOfWord {aw : BitVec 9} {w : Word} {i : Instr} (hw : awWrite aw = true)
    (h : decodeAccess aw w = .ok i) : decode (bytesOfAw aw ++ bytesOfWord w) = .ok (i, []) := by
  simp [decode, bytesOfAw, bytesOfWord, hw, h]

end Sys2Proof

namespace Sys2Proof.Machine

/-! The region check. -/

/-- R68: `covers` in numbers. -/
theorem Instance.covers_iff {x : Instance} {addr : Word} : x.covers addr = true ↔
    x.params.base.toNat ≤ addr.toNat ∧ addr.toNat < x.params.base.toNat + x.params.regionSize := by
  simp [Instance.covers]

/-- The parameters of an instance of a legal platform are legal. -/
theorem State.Inv.params_wf {s : State} (h : s.Inv) {n : Nat} {x : Instance} (hx : s.insts[n]? = some x) :
    x.params.wf = true :=
  (placementsOk_iff.mp h.1).2.1 _ (List.mem_map_of_mem (List.mem_of_getElem? hx))

/-- R41, R68: on a legal platform the region check finds the instance whose region holds the address. -/
theorem State.Inv.findRegion_eq {s : State} (h : s.Inv) {n : Nat} {x : Instance} {addr : Word}
    (hx : s.insts[n]? = some x) (hc : x.covers addr = true) : findRegion addr s.insts 0 = some (n, x) := by
  obtain ⟨-, -, hdisj⟩ := placementsOk_iff.mp h.1
  refine Machine.findRegion_eq hx hc fun m y hm hy => ?_
  obtain ⟨hn, rfl⟩ := List.getElem?_eq_some_iff.mp hx
  obtain ⟨hm', rfl⟩ := List.getElem?_eq_some_iff.mp hy
  have hd := List.pairwise_iff_getElem.mp (List.pairwise_map.mp hdisj) m n hm' hn hm
  simp only [Params.disjoint, Bool.or_eq_true, decide_eq_true_eq] at hd
  rw [Instance.covers_iff] at hc
  rw [Bool.eq_false_iff, ne_eq, Instance.covers_iff]
  omega

/-- R40: the address of an offset of the window is `BASE + off`, with no wrap. -/
theorem toNat_base_add {p : Params} (h : p.wf = true) (off : BitVec 6) :
    (p.base + off.setWidth 32).toNat = p.base.toNat + off.toNat := by
  have hwin := p.window_le h
  have hle := p.region_le h
  simp only [BitVec.toNat_add, BitVec.toNat_setWidth]
  omega

/-- Every address of the window lies in the region. -/
theorem covers_base_add {x : Instance} (h : x.params.wf = true) (off : BitVec 6) :
    x.covers (x.params.base + off.setWidth 32) = true := by
  have hwin := x.params.window_le h
  rw [Instance.covers_iff, toNat_base_add h]
  omega

/-- R68: the offset of `BASE + off` is `off`. -/
@[simp] theorem offsetOf_base_add (p : Params) (off : BitVec 6) :
    offsetOf p (p.base + off.setWidth 32) = off.toNat := by
  rw [offsetOf, add_sub_cancel_left, BitVec.toNat_setWidth_of_le (by decide)]

/-! The placed access. -/

/-- The number of a legal word and its WDATA places the access of that word at the head of the inputs. -/
theorem withFetchWord_eq {s : State} {x : Instance} (aw : BitVec 9) (w : Word) (hx : s.insts[s.sel]? = some x) :
    s.withFetchWord 48 (aw.toNat + w.toNat * 2 ^ 16) =
      { s with inputs := .access (accessOfWord x.params aw w) :: s.inputs } := by
  have haw := aw.isLt
  have hw := w.isLt
  have hmod : (aw.toNat + w.toNat * 2 ^ 16) % 2 ^ 48 = aw.toNat + w.toNat * 2 ^ 16 := by omega
  have hhigh : (aw.toNat + w.toNat * 2 ^ 16) / 2 ^ 9 % 2 ^ 7 = 0 := by omega
  have hword : BitVec.ofNat 9 (aw.toNat + w.toNat * 2 ^ 16) = aw :=
    BitVec.eq_of_toNat_eq (by rw [BitVec.toNat_ofNat]; omega)
  have hdata : BitVec.ofNat 32 ((aw.toNat + w.toNat * 2 ^ 16) / 2 ^ 16) = w :=
    BitVec.eq_of_toNat_eq (by rw [BitVec.toNat_ofNat]; omega)
  simp only [State.withFetchWord, placeTableWord, hx, hmod, hhigh, hword, hdata, ne_eq, not_true_eq_false, if_false]

/-- R69 to R71: an aligned 4-byte access in the window passes the checks. -/
theorem portCheck_window {off : BitVec 6} (h : off.toNat % 4 = 0) : portCheck 4 off.toNat = none := by
  have := off.isLt
  obtain ⟨hs, -⟩ | ⟨-, hm, -⟩ | ⟨-, -, hu, -⟩ | ⟨-, -, -, hk⟩ := portCheck_cases 4 off.toNat
  · exact absurd rfl hs
  · exact absurd h hm
  · omega
  · exact hk

/-- Where the checks pass, an access runs the instruction its bytes decode to. -/
theorem performAccess_eq_exec {kind : AccessKind} {size off : Nat} {i : Instr} {bs : List Byte} (s : State)
    (hcheck : portCheck size off = none) (hd : decode (accessBytes size off kind) = .ok (i, bs)) :
    performAccess kind size off s = exec i s := by
  cases kind with
  | fetch => simp [accessBytes, decode] at hd
  | read => simp [performAccess, hcheck, runAccess, hd]
  | write w => simp [performAccess, hcheck, runAccess, hd]

/-- The bytes of the access of a legal word decode to the word's instruction. -/
theorem decode_accessBytes {p : Params} {aw : BitVec 9} {w : Word} {i : Instr} (h : decodeAccess aw w = .ok i) :
    decode (accessBytes 4 (awOff aw).toNat (accessOfWord p aw w).kind) = .ok (i, []) := by
  have hform := formAccessWord_parts (decodeAccess_ok h).1
  cases hw : awWrite aw with
  | false =>
    rw [hw] at hform
    simp only [accessOfWord, hw, Bool.false_eq_true, if_false, accessBytes, hform]
    exact decode_bytesOfAw hw h
  | true =>
    rw [hw] at hform
    simp only [accessOfWord, hw, if_true, accessBytes, hform]
    exact decode_bytesOfAw_bytesOfWord hw h

/-- R67: on a legal platform the access of a legal word to an instance runs the word's instruction there. -/
theorem accessStep_accessOfWord {s : State} (hinv : s.Inv) {n : Nat} {x : Instance} (hx : s.insts[n]? = some x)
    {aw : BitVec 9} {w : Word} {i : Instr} (h : decodeAccess aw w = .ok i) :
    accessStep (accessOfWord x.params aw w) s = exec i { s with sel := n } := by
  obtain ⟨hsize, hlow⟩ := decodeAccess_ok h
  have hfind := hinv.findRegion_eq hx (covers_base_add (hinv.params_wf hx) (awOff aw))
  have hsz : (accessOfWord x.params aw w).size = 4 := by simp [accessOfWord, hsize, sizeOfCode]
  have haddr : (accessOfWord x.params aw w).addr = x.params.base + (awOff aw).setWidth 32 := rfl
  have hagent : (accessOfWord x.params aw w).agent = x.params.owner := rfl
  simp only [accessStep, haddr, hfind, hagent, ne_eq, not_true_eq_false, if_false, hsz, offsetOf_base_add]
  exact performAccess_eq_exec _ (portCheck_window (toNat_mod_four_of_offLow hlow)) (decode_accessBytes h)

/-- Settles O31: the word is placed as its own access to the selected instance (`withFetchWord_eq`), which runs there
(`accessStep_accessOfWord`). -/
theorem placedAccessRunsNext : Obligations.PlacedAccessRunsNext := by
  intro s aw w i hinv h
  obtain ⟨x, hx⟩ : ∃ x, s.insts[s.sel]? = some x := ⟨_, List.getElem?_eq_getElem hinv.2⟩
  rw [withFetchWord_eq aw w hx, step_cons rfl]
  exact accessStep_accessOfWord (s := s) hinv hx h

end Sys2Proof.Machine

/-! PROOF. The statements about the register memory and the port (20_memory.md): isolation of the instances (R41), the
platform (D4), repeated accesses (R47), what a read changes (R46), and the two refusals (R49, R52). -/

namespace Sys2Proof.Machine

/-! Isolation: what reaches an instance was for it. -/

/-- R68: the region the check finds holds the address. -/
theorem findRegion_bounds {addr : Word} {l : List Instance} {n : Nat} {x : Instance}
    (h : findRegion addr l 0 = some (n, x)) :
    x.params.base.toNat ≤ addr.toNat ∧ addr.toNat < x.params.base.toNat + x.params.regionSize := by
  obtain ⟨-, -, hcovers, -⟩ := findRegion_some h
  exact Instance.covers_iff.mp hcovers

/-- R68, R114, R147: an instance that a step changes is one its input is for. -/
theorem InstanceStep.eq_or_isFor {s : State} {m : Nat} {x y : Instance} {i : Input} {rest : List Input}
    (h : InstanceStep s m x y) (hin : s.inputs = i :: rest) : y = x ∨ i.isFor m x := by
  cases h with
  | stays => exact .inl rfl
  | instr input region | portFault input region =>
    obtain ⟨rfl, -⟩ := List.cons.inj (hin.symm.trans input)
    exact .inr (findRegion_bounds region)
  | engine input | reset input =>
    obtain ⟨rfl, -⟩ := List.cons.inj (hin.symm.trans input)
    exact .inr rfl

/-- Settles O52: an instance is still there after a step, and it can differ only where the input is for it
(`InstanceStep.eq_or_isFor`). -/
theorem instancesAreIndependent : Obligations.InstancesAreIndependent := by
  intro s t i rest hin h m x hx hnot
  obtain ⟨y, hy, -⟩ := step_faults_at h hx
  obtain rfl := ((step_instance_at h hx hy).eq_or_isFor hin).resolve_right hnot
  exact hy

/-! The platform. -/

/-- Nothing that can happen to an instance changes its parameters. -/
theorem InstanceStep.params_eq {s : State} {m : Nat} {x y : Instance} (h : InstanceStep s m x y) :
    y.params = x.params := by
  cases h with
  | stays => rfl
  | instr => exact instrEffect_params _ x
  | portFault => exact Instance.raise_params x _
  | engine => exact applyEvent_params _ x
  | reset => exact Instance.atReset_params _ _ _

/-- R5 (`N_INST`): a step neither adds nor removes an instance. -/
theorem step_insts_length {s t : State} (h : step s = .next t) : t.insts.length = s.insts.length := by
  obtain hsame | ⟨n, x, y, -, ht, -⟩ := step_instances h
  · rw [hsame]
  · rw [ht, List.length_set]

/-- No step changes a parameter of any instance. -/
theorem step_params {s t : State} (h : step s = .next t) :
    t.insts.map Instance.params = s.insts.map Instance.params := by
  have hlen := step_insts_length h
  refine List.ext_getElem (by simp [hlen]) fun m hm hm' => ?_
  rw [List.length_map] at hm hm'
  rw [List.getElem_map, List.getElem_map]
  exact (step_instance_at h (List.getElem?_eq_getElem hm') (List.getElem?_eq_getElem hm)).params_eq

/-- An access after the region check leaves the selection as it is. -/
theorem performAccess_sel {kind : AccessKind} {size off : Nat} {s t : State}
    (h : performAccess kind size off s = .next t) : t.sel = s.sel := by
  obtain ⟨-, -, ⟨i, -, -, -, hi⟩ | ⟨-, -, -, rfl⟩ | ⟨-, -, -, -, rfl⟩⟩ := performAccess_next h
  · obtain ⟨-, -, rfl⟩ := exec_next hi
    rfl
  · rfl
  · rfl

/-- R68, R72: a step keeps the selection, or selects an instance that the region check has found. -/
theorem step_sel {s t : State} (h : step s = .next t) : t.sel = s.sel ∨ t.sel < s.insts.length := by
  cases hin : s.inputs with
  | nil =>
    simp only [step, hin, Host.Outcome.next.injEq] at h
    exact .inl (h ▸ rfl)
  | cons i rest =>
    rw [step_cons hin] at h
    cases i with
    | access a =>
      obtain ⟨-, rfl⟩ | ⟨n, x, hfind, -, hperf⟩ := accessStep_next h
      · exact .inl rfl
      · obtain ⟨-, hx, -, -⟩ := findRegion_some hfind
        rw [performAccess_sel hperf]
        exact .inr (List.getElem?_eq_some_iff.mp hx).1
    | engine n e =>
      obtain ⟨-, -, rfl⟩ := engineStep_next h
      exact .inl rfl
    | reset n =>
      obtain ⟨-, -, rfl⟩ := resetStep_next h
      exact .inl rfl

/-- Settles O53: the parameters and the number of the instances stay, and what is selected is an instance
(`step_params`, `step_insts_length`, `step_sel`). -/
theorem stepKeepsThePlatform : Obligations.StepKeepsThePlatform := by
  intro s t ⟨hplaced, hsel⟩ h
  have hparams := step_params h
  refine ⟨⟨hparams ▸ hplaced, ?_⟩, hparams⟩
  rw [step_insts_length h]
  obtain hkept | hfound := step_sel h
  · exact hkept ▸ hsel
  · exact hfound

/-- Settles O54: the one region of the platform is aligned to its size, and the instance there begins with no fault. -/
theorem resetPlatformIsLegal : Obligations.ResetPlatformIsLegal := by
  refine ⟨⟨?_, Nat.zero_lt_one⟩, rfl⟩
  change placementsOk [platformAtReset] = true
  decide

/-! Repeated writes. -/

/-- Storing a word again in the same register changes nothing. -/
@[simp] theorem Instance.store_store (x : Instance) (r : RegName) (w : Word) :
    (x.store r w).store r w = x.store r w := by
  cases r <;> rfl

/-- Recording a kind again changes nothing (R11: the set is sticky). -/
@[simp] theorem Instance.raise_raise (x : Instance) (k : FaultKind) : (x.raise k).raise k = x.raise k := by
  simp [Instance.raise]

@[simp] theorem Instance.raiseIf_raiseIf (x : Instance) (b : Bool) (k : FaultKind) :
    (x.raiseIf b k).raiseIf b k = x.raiseIf b k := by
  cases b <;> simp

/-- Recording a fault and storing a word touch different parts of the instance. -/
theorem Instance.raiseIf_store (x : Instance) (r : RegName) (w : Word) (b : Bool) (k : FaultKind) :
    (x.store r w).raiseIf b k = (x.raiseIf b k).store r w := by
  cases r <;> cases b <;> rfl

@[simp] theorem Con.setBy_setBy (w : Word) (c : Con) : (c.setBy w).setBy w = c.setBy w := by
  simp [Con.setBy]

@[simp] theorem Con.clearBy_clearBy (w : Word) (c : Con) : (c.clearBy w).clearBy w = c.clearBy w := by
  simp [Con.clearBy]

/-- R75: the effect of the write of a read-write register is that of the generic write. -/
theorem instrEffect_writeOf_readWrite {r : RegName} (hr : isReadWrite r = true) (w : Word) (x : Instance) :
    instrEffect (writeOf r w) x = (x.raiseIf (reservedSet r w) .reservedWrite).store r (w &&& defmask r) := by
  cases r <;> first | rfl | cases hr

/-- R47: the effect of a write is idempotent. -/
theorem instrEffect_writeOf_idem (r : RegName) (w : Word) (x : Instance) :
    instrEffect (writeOf r w) (instrEffect (writeOf r w) x) = instrEffect (writeOf r w) x := by
  cases r with
  | stat | databuf => exact x.raise_raise .readOnlyWrite
  | conset | conclr => simp +contextual [writeOf, instrEffect, Instance.raiseIf_eq]
  | _ =>
    rw [instrEffect_writeOf_readWrite rfl, instrEffect_writeOf_readWrite rfl, Instance.raiseIf_store,
      Instance.raiseIf_raiseIf, Instance.store_store]

/-- Settles O21: the effect of a write is idempotent, and a write takes no draw and gives no reply. -/
theorem repeatedWriteLeavesSameState : Obligations.RepeatedWriteLeavesSameState := by
  intro i s t hwrite h
  obtain ⟨hread, -⟩ | ⟨w, hw, hi⟩ := instr_eq i
  · simp [hread] at hwrite
  · obtain ⟨x, hx, ht⟩ := exec_next h
    have hidem : instrEffect i (instrEffect i x) = instrEffect i x := by
      rw [hi]; exact instrEffect_writeOf_idem _ _ _
    have hsel : t.sel = s.sel := by rw [ht]
    rw [exec_eq i (hsel ▸ exec_next_at_sel h hx), hidem, ht]
    simp [instrReply, instrDraws, hw]

/-! Repeated reads. -/

/-- R76, R81, R82: a read changes its instance only where the register is write-only, and there only FAULTS. -/
theorem instrEffect_readOf (r : RegName) (x : Instance) :
    instrEffect (readOf r) x = if r = .conset ∨ r = .conclr then x.raise .writeOnlyRead else x := by
  cases r <;> rfl

/-- R74: what the read of a readable register returns. -/
theorem instrReply_readOf {r : RegName} (h1 : r ≠ .conset) (h2 : r ≠ .conclr) (x : Instance) (d : Word) :
    instrReply (readOf r) x d = some ((x.placed r &&& defmask r) ||| (d &&& ~~~(defmask r))) := by
  cases r with
  | conset => exact absurd rfl h1
  | conclr => exact absurd rfl h2
  | _ => rfl

/-- The draw of a reply lies outside the defined mask (R32, R74). -/
theorem reply_and_mask (p d m : Word) : ((p &&& m) ||| (d &&& ~~~m)) &&& m = p &&& m := by
  ext j hj
  cases hm : m[j] <;> simp [hm]

/-- What the read of a readable register does to the state: the instance stays, and RDATA holds its bits in the defined
mask. -/
theorem exec_readOf_next {r : RegName} (h1 : r ≠ .conset) (h2 : r ≠ .conclr) {s t : State}
    (h : exec (readOf r) s = .next t) : ∃ x, s.insts[s.sel]? = some x ∧ t.insts = s.insts ∧ t.sel = s.sel ∧
      ∀ v, t.rdata = some v → v &&& defmask r = x.placed r &&& defmask r := by
  obtain ⟨x, hx, rfl⟩ := exec_next h
  refine ⟨x, hx, ?_, rfl, fun v hv => ?_⟩
  · simpa [instrEffect_readOf, h1, h2] using set_getElem_self hx
  · obtain rfl := Option.some.inj ((instrReply_readOf h1 h2 x _).symm.trans hv)
    exact reply_and_mask _ _ _

/-- Settles O22: both reads return the bits of the same instance in the defined mask (`exec_readOf_next`). -/
theorem repeatedReadReturnsSameDefinedBits : Obligations.RepeatedReadReturnsSameDefinedBits := by
  intro i s t u v v' hread h1 h2 h h' hv hv'
  obtain ⟨-, hi⟩ | ⟨w, hw, -⟩ := instr_eq i
  · rw [hi] at h h'
    obtain ⟨x, hx, hinsts, hsel, hfirst⟩ := exec_readOf_next h1 h2 h
    obtain ⟨y, hy, -, -, hsecond⟩ := exec_readOf_next h1 h2 h'
    rw [hinsts, hsel, hx] at hy
    obtain rfl := Option.some.inj hy
    rw [hfirst v hv, hsecond v' hv']
  · rw [hread] at hw; cases hw

/-! What a read step changes. -/

/-- R54, R56: bit W of the word the port forms says whether the access is a write. -/
@[simp] theorem awWrite_formAccessWord (size : Nat) (write : Bool) (off : Nat) :
    awWrite (formAccessWord size write off) = write := by
  simp only [awWrite, formAccessWord, BitVec.getLsbD_append]
  simp

/-- R60, R76: a legal word with W = 0 is the read of a register. -/
theorem decodeAccess_readOf {aw : BitVec 9} {w : Word} {i : Instr} (hw : awWrite aw = false)
    (h : decodeAccess aw w = .ok i) : i = readOf (selectReg (offIndex (awOff aw))) := by
  obtain ⟨hsize, hlow⟩ := decodeAccess_ok h
  simpa [decodeAccess, hsize, hlow, hw] using h.symm

/-- The bytes of a word with W = 0 decode to the read of a register. -/
theorem decode_bytesOfAw_readOf {aw : BitVec 9} {i : Instr} {rest : List Byte} (hw : awWrite aw = false)
    (h : decode (bytesOfAw aw) = .ok (i, rest)) : ∃ r, i = readOf r := by
  cases hd : decodeAccess aw 0#32 with
  | error e => simp [decode, bytesOfAw, hw, hd] at h
  | ok j =>
    rw [decode_bytesOfAw hw hd] at h
    obtain ⟨rfl, -⟩ := Prod.mk.inj (Except.ok.inj h)
    exact ⟨_, decodeAccess_readOf hw hd⟩

/-- The kinds that the port records (R69 to R71). -/
theorem portCheck_some {size off : Nat} {k : FaultKind} (h : portCheck size off = some k) :
    k = .size ∨ k = .misaligned ∨ k = .unmapped := by
  obtain ⟨-, hk⟩ | ⟨-, -, hk⟩ | ⟨-, -, -, hk⟩ | ⟨-, -, -, hk⟩ := portCheck_cases size off
  · exact .inl (Option.some.inj (h.symm.trans hk))
  · exact .inr (.inl (Option.some.inj (h.symm.trans hk)))
  · exact .inr (.inr (Option.some.inj (h.symm.trans hk)))
  · cases h.symm.trans hk

/-- Settles O40: the read either runs a read instruction (`instrEffect_readOf`) or fails a check of the port. -/
theorem readStepChangesOnlyFaults : Obligations.ReadStepChangesOnlyFaults := by
  intro s t a rest hin hkind h
  obtain hsame | ⟨n, x, y, hx, ht, hcase⟩ := step_instances h
  · exact .inl hsame
  · obtain ⟨b, _, i, bs, hin', hfind, -, -, hd, rfl⟩ | ⟨b, _, k, hin', hfind, hk, rfl⟩ | ⟨e, _, hin', -, -⟩ |
      ⟨_, hin', -⟩ := hcase
    · cases hin.symm.trans hin'
      obtain ⟨hlo, hhi⟩ := findRegion_bounds hfind
      rw [hkind] at hd
      obtain ⟨r, rfl⟩ := decode_bytesOfAw_readOf (awWrite_formAccessWord _ _ _) hd
      rw [instrEffect_readOf] at ht
      split at ht
      · exact .inr ⟨n, x, .writeOnlyRead, hx, hlo, hhi, .inr (.inr (.inr rfl)), ht⟩
      · exact .inl (ht.trans (set_getElem_self hx))
    · cases hin.symm.trans hin'
      obtain ⟨hlo, hhi⟩ := findRegion_bounds hfind
      refine .inr ⟨n, x, k, hx, hlo, hhi, ?_, ht⟩
      obtain hk | hk | hk := portCheck_some hk <;> simp [hk]
    · cases hin.symm.trans hin'
    · cases hin.symm.trans hin'

/-! The two refusals. -/

/-- R67, R68: on a legal platform an access inside an instance's region goes to that instance, after the check of its
agent (R49). -/
theorem step_access_in_region {s : State} {a : BusAccess} {rest : List Input} {n : Nat} {x : Instance}
    (hinv : s.Inv) (hin : s.inputs = .access a :: rest) (hx : s.insts[n]? = some x) (hc : x.covers a.addr = true) :
    step s = if a.agent ≠ x.params.owner then .refused .secondBusAgent
      else performAccess a.kind a.size (offsetOf x.params a.addr) { s with inputs := rest, sel := n } := by
  rw [step_cons hin]
  simp [performInput, accessStep, hinv.findRegion_eq hx hc]

/-- Settles O38: the access reaches its instance by its own agent, and there no fetch has a meaning. -/
theorem instructionFetchIsRefused : Obligations.InstructionFetchIsRefused := by
  intro s a rest n x ⟨hinv, hin, hx, hagent, hlo, hhi⟩ hfetch
  rw [step_access_in_region hinv hin hx (Instance.covers_iff.mpr ⟨hlo, hhi⟩), if_neg (not_not.mpr hagent), hfetch]
  rfl

/-- Settles O39: the access reaches the check of its agent, which it fails. -/
theorem secondBusAgentIsRefused : Obligations.SecondBusAgentIsRefused := by
  intro s a rest n x hinv hin hx hlo hhi hagent
  rw [step_access_in_region hinv hin hx (Instance.covers_iff.mpr ⟨hlo, hhi⟩), if_pos hagent]

end Sys2Proof.Machine


/-! PROOF. The statements about access words and their bytes (R54 to R61): an access word decodes exactly to the access
whose word it is, and bytes decode exactly to the instruction they encode. -/

namespace Sys2Proof

/-! The legal access words. -/

/-- R60: the access word of index `k`, of a write or of a read. -/
def legalWord (write : Bool) (k : BitVec 4) : BitVec 9 :=
  (if write then 0x140#9 else 0x100#9) ||| (k.setWidth 9 <<< 2)

@[simp] theorem awSize_legalWord (write : Bool) (k : BitVec 4) : awSize (legalWord write k) = 0b10#2 := by
  revert write k; decide

@[simp] theorem awWrite_legalWord (write : Bool) (k : BitVec 4) : awWrite (legalWord write k) = write := by
  revert write k; decide

@[simp] theorem offLow_legalWord (write : Bool) (k : BitVec 4) : offLow (awOff (legalWord write k)) = 0b00#2 := by
  revert write k; decide

@[simp] theorem offIndex_legalWord (write : Bool) (k : BitVec 4) : offIndex (awOff (legalWord write k)) = k := by
  revert write k; decide

/-- R55, R57, R60: a word with SZ = 10 and OFF[1:0] = 00 is the legal word of its W and its index. -/
theorem eq_legalWord {aw : BitVec 9} (hsize : awSize aw = 0b10#2) (hlow : offLow (awOff aw) = 0b00#2) :
    aw = legalWord (awWrite aw) (offIndex (awOff aw)) := by
  revert aw; decide

/-- R57: OFF[1:0] are the low bits of the word. -/
theorem offLow_awOff (aw : BitVec 9) : offLow (awOff aw) = aw.extractLsb' 0 2 := by
  revert aw; decide

/-! What an access word decodes to. -/

@[simp] theorem decodeAccess_legalWord_read (k : BitVec 4) (w : Word) :
    decodeAccess (legalWord false k) w = .ok (readOf (selectReg k)) := by
  simp [decodeAccess]

@[simp] theorem decodeAccess_legalWord_write (k : BitVec 4) (w : Word) :
    decodeAccess (legalWord true k) w = .ok (writeOf (selectReg k) w) := by
  simp [decodeAccess]

/-- R60: an access word decodes to an instruction exactly if it is the legal word of the instruction's register, and
then a write has WDATA. -/
theorem decodeAccess_eq_ok_iff {aw : BitVec 9} {w : Word} {i : Instr} : decodeAccess aw w = .ok i ↔
    ∃ r, (aw = legalWord false (regIndex r) ∧ i = readOf r) ∨ (aw = legalWord true (regIndex r) ∧ i = writeOf r w) := by
  constructor
  · intro h
    obtain ⟨hsize, hlow⟩ := decodeAccess_ok h
    have haw := eq_legalWord hsize hlow
    refine ⟨selectReg (offIndex (awOff aw)), ?_⟩
    rw [regIndex_selectReg]
    cases hw : awWrite aw with
    | false =>
      rw [hw] at haw
      rw [haw, decodeAccess_legalWord_read] at h
      exact .inl ⟨haw, (Except.ok.inj h).symm⟩
    | true =>
      rw [hw] at haw
      rw [haw, decodeAccess_legalWord_write] at h
      exact .inr ⟨haw, (Except.ok.inj h).symm⟩
  · rintro ⟨r, ⟨rfl, rfl⟩ | ⟨rfl, rfl⟩⟩ <;> simp

/-- R55, R61: a word is rejected for its size exactly if SZ is not 10. -/
theorem decodeAccess_eq_illegalSize_iff {aw : BitVec 9} {w : Word} :
    decodeAccess aw w = .error .illegalSize ↔ awSize aw ≠ 0b10#2 := by
  fun_cases decodeAccess aw w with
  | case1 hsize => simp [hsize]
  | case2 hsize | case3 hsize | case4 hsize => simpa using hsize

/-- R57, R61: a word is rejected for its misalignment exactly if SZ is 10 and OFF[1:0] is not 00. -/
theorem decodeAccess_eq_misaligned_iff {aw : BitVec 9} {w : Word} :
    decodeAccess aw w = .error .misaligned ↔ awSize aw = 0b10#2 ∧ offLow (awOff aw) ≠ 0b00#2 := by
  fun_cases decodeAccess aw w with
  | case1 hsize => simp [hsize]
  | case2 hsize hlow => simp [not_not.mp hsize, hlow]
  | case3 hsize hlow | case4 hsize hlow => simp [not_not.mp hlow]

/-- Settles O25: each word is evaluated. -/
theorem specWordsDecode : Obligations.SpecWordsDecode := by
  unfold Obligations.SpecWordsDecode
  decide

/-- Settles O26: the words that decode are the legal words (`decodeAccess_eq_ok_iff`), and each of the two checks rejects
by its own name. -/
theorem legalWordsAreTheThirtyTwo : Obligations.LegalWordsAreTheThirtyTwo := by
  intro aw w
  refine ⟨⟨?_, ?_⟩, decodeAccess_eq_illegalSize_iff, ?_⟩
  · rintro ⟨i, h⟩
    obtain ⟨r, ⟨rfl, -⟩ | ⟨rfl, -⟩⟩ := decodeAccess_eq_ok_iff.mp h
    · exact ⟨regIndex r, .inl rfl⟩
    · exact ⟨regIndex r, .inr rfl⟩
  · rintro ⟨k, rfl | rfl⟩
    · exact ⟨_, decodeAccess_legalWord_read k w⟩
    · exact ⟨_, decodeAccess_legalWord_write k w⟩
  · rw [← offLow_awOff]
    exact decodeAccess_eq_misaligned_iff

/-! The bytes. -/

/-- A container with its upper seven bits zero is the container of the access word it holds. -/
theorem bytesOfAw_awOfBytes (lo : Byte) {hi : Byte} (h : hi.extractLsb' 1 7 = 0#7) :
    bytesOfAw (awOfBytes lo hi) = [lo, hi] := by
  have hbit : (hi.extractLsb' 0 1).setWidth 8 = hi := by revert hi; decide
  rw [bytesOfAw, awOfBytes, BitVec.extractLsb'_append_eq_right, BitVec.extractLsb'_append_eq_left, hbit]

/-- The bytes of the word of four bytes are those bytes. -/
theorem bytesOfWord_wordOfBytes (b0 b1 b2 b3 : Byte) : bytesOfWord (wordOfBytes b0 b1 b2 b3) = [b0, b1, b2, b3] := by
  have h0 : (wordOfBytes b0 b1 b2 b3).extractLsb' 0 8 = b0 := BitVec.extractLsb'_append_eq_right
  have h1 : (wordOfBytes b0 b1 b2 b3).extractLsb' 8 8 = b1 :=
    (BitVec.extractLsb'_append_eq_of_le (by decide)).trans BitVec.extractLsb'_append_eq_right
  have h2 : (wordOfBytes b0 b1 b2 b3).extractLsb' 16 8 = b2 :=
    (BitVec.extractLsb'_append_eq_of_le (by decide)).trans
      ((BitVec.extractLsb'_append_eq_of_le (by decide)).trans BitVec.extractLsb'_append_eq_right)
  have h3 : (wordOfBytes b0 b1 b2 b3).extractLsb' 24 8 = b3 :=
    (BitVec.extractLsb'_append_eq_of_le (by decide)).trans
      ((BitVec.extractLsb'_append_eq_of_le (by decide)).trans BitVec.extractLsb'_append_eq_left)
  rw [bytesOfWord, h0, h1, h2, h3]

/-- R54: a read's bytes are its access word. -/
theorem encode_readOf (r : RegName) : encode (readOf r) = bytesOfAw (legalWord false (regIndex r)) := by
  simp [encode, accessWordOf, legalWord]

/-- R54: a write's bytes are its access word and WDATA. -/
theorem encode_writeOf (r : RegName) (w : Word) :
    encode (writeOf r w) = bytesOfAw (legalWord true (regIndex r)) ++ bytesOfWord w := by
  simp [encode, accessWordOf, legalWord]

/-- Decoding the bytes of a read, whatever follows them. -/
theorem decode_encode_readOf (r : RegName) (rest : List Byte) :
    decode (encode (readOf r) ++ rest) = .ok (readOf r, rest) := by
  simp [encode_readOf, decode, bytesOfAw]

/-- Decoding the bytes of a write, whatever follows them. -/
theorem decode_encode_writeOf (r : RegName) (w : Word) (rest : List Byte) :
    decode (encode (writeOf r w) ++ rest) = .ok (writeOf r w, rest) := by
  simp [encode_writeOf, decode, bytesOfAw, bytesOfWord]

/-- Bytes that decode are an access word that decodes, and after a write's the bytes of WDATA. -/
theorem decode_ok {bs rest : List Byte} {i : Instr} (h : decode bs = .ok (i, rest)) : ∃ aw w,
    decodeAccess aw w = .ok i ∧ bs = bytesOfAw aw ++ (if awWrite aw then bytesOfWord w else []) ++ rest := by
  revert h
  fun_cases decode bs with
  | case2 lo hi hcontainer hwrite b0 b1 b2 b3 rest' j hd =>
    intro h
    obtain ⟨rfl, rfl⟩ := Prod.mk.inj (Except.ok.inj h)
    exact ⟨_, _, hd, by simp [hwrite, bytesOfAw_awOfBytes lo (not_not.mp hcontainer), bytesOfWord_wordOfBytes]⟩
  | case5 lo hi rest' hcontainer hread j hd =>
    intro h
    obtain ⟨rfl, rfl⟩ := Prod.mk.inj (Except.ok.inj h)
    exact ⟨_, _, hd, by simp [hread, bytesOfAw_awOfBytes lo (not_not.mp hcontainer)]⟩
  | _ => exact nofun

/-- Settles O27: an instruction is the read or the write of its register (`instr_eq`), and the bytes of both read back. -/
theorem decodeOfEncodeIsTheInstruction : Obligations.DecodeOfEncodeIsTheInstruction := by
  intro i rest _
  obtain ⟨-, hi⟩ | ⟨w, -, hi⟩ := instr_eq i
  · rw [hi]; exact decode_encode_readOf _ rest
  · rw [hi]; exact decode_encode_writeOf _ w rest

/-- Settles O28: the bytes hold an access word that decodes (`decode_ok`), which is the instruction's own
(`decodeAccess_eq_ok_iff`). -/
theorem decodedBytesAreTheEncoding : Obligations.DecodedBytesAreTheEncoding := by
  intro bs rest i h
  obtain ⟨aw, w, hd, rfl⟩ := decode_ok h
  obtain ⟨r, ⟨rfl, rfl⟩ | ⟨rfl, rfl⟩⟩ := decodeAccess_eq_ok_iff.mp hd
  · simp [encode_readOf]
  · simp [encode_writeOf]

end Sys2Proof

/-! PROOF. The statement about the field write FWR (R66): the word it writes keeps the read's defined bits outside the
field (R129), has no reserved bit set, and so is what the register then holds (R74, R75). -/

namespace Sys2Proof.Machine

/-! The mask of a field, bit by bit. -/

/-- R8: the bounds of a descriptor. -/
theorem FieldDesc.wf_iff {f : FieldDesc} : f.wf = true ↔ f.low + f.width ≤ 32 := by
  simp [FieldDesc.wf]

/-- R8: the mask has a 1 exactly at the field's positions. -/
theorem FieldDesc.getLsbD_mask {f : FieldDesc} (h : f.wf = true) (j : Nat) :
    f.mask.getLsbD j = (decide (f.low ≤ j) && decide (j < f.low + f.width)) := by
  have hle := FieldDesc.wf_iff.mp h
  have hpos : 0 < 2 ^ f.width := Nat.two_pow_pos _
  have hpow : 2 ^ f.width ≤ 2 ^ 32 := Nat.pow_le_pow_right (by decide) (by omega)
  have hwrap : (2 ^ 32 - 1 + 2 ^ f.width) % 2 ^ 32 = (2 ^ f.width - 1) % 2 ^ 32 := by omega
  have hones : 1#32 <<< f.width - 1#32 = BitVec.ofNat 32 (2 ^ f.width - 1) :=
    BitVec.eq_of_toNat_eq (by simpa [BitVec.toNat_sub, Nat.shiftLeft_eq] using hwrap)
  rw [FieldDesc.mask, hones, BitVec.getLsbD_shiftLeft, BitVec.getLsbD_ofNat, Nat.testBit_two_pow_sub_one,
    Bool.eq_iff_iff]
  simp only [Bool.and_eq_true, Bool.not_eq_true', decide_eq_true_eq, decide_eq_false_iff_not]
  omega

/-- A value of the field's width, at the field's place, lies within the mask. -/
theorem FieldDesc.place_and_mask {f : FieldDesc} (h : f.wf = true) (b : BitVec f.width) :
    (b.setWidth 32 <<< f.low) &&& f.mask = b.setWidth 32 <<< f.low := by
  have hle := FieldDesc.wf_iff.mp h
  apply BitVec.eq_of_getLsbD_eq
  intro j hj
  simp only [BitVec.getLsbD_and, f.getLsbD_mask h, BitVec.getLsbD_shiftLeft, BitVec.getLsbD_setWidth]
  by_cases hw : f.low + f.width ≤ j
  · simp [BitVec.getLsbD_of_ge b (j - f.low) (by omega)]
  · by_cases hlow : f.low ≤ j <;> simp [Nat.lt_of_not_le hw, hlow]

/-- Shifting a placed value back gives the value. -/
theorem FieldDesc.place_ushiftRight {f : FieldDesc} (h : f.wf = true) (b : BitVec f.width) :
    (b.setWidth 32 <<< f.low) >>> f.low = b.setWidth 32 := by
  have hle := FieldDesc.wf_iff.mp h
  apply BitVec.eq_of_getLsbD_eq
  intro j hj
  simp only [BitVec.getLsbD_ushiftRight, BitVec.getLsbD_shiftLeft, BitVec.getLsbD_setWidth]
  by_cases hw : j < f.width
  · simp [show f.low + j < 32 by omega]
  · simp [BitVec.getLsbD_of_ge b j (Nat.le_of_not_lt hw)]

/-- Taking a field's bits out of a word and placing them again masks the word. -/
theorem FieldDesc.place_extract {f : FieldDesc} (h : f.wf = true) (w : Word) :
    (w.extractLsb' f.low f.width).setWidth 32 <<< f.low = w &&& f.mask := by
  apply BitVec.eq_of_getLsbD_eq
  intro j hj
  simp only [BitVec.getLsbD_and, f.getLsbD_mask h, BitVec.getLsbD_shiftLeft, BitVec.getLsbD_setWidth,
    BitVec.getLsbD_extractLsb']
  by_cases hlow : f.low ≤ j
  · have hback : f.low + (j - f.low) = j := by omega
    have hwidth : j - f.low < f.width ↔ j < f.low + f.width := by omega
    have : j - f.low < 32 := by omega
    simp [hback, hwidth, hlow, hj, this, Bool.and_comm]
  · simp [hlow]

/-- The same for bits that are placed from bit 0 on. -/
theorem FieldDesc.setWidth_and_mask {r : RegName} {n : Nat} (hn : n ≤ 32) (b : BitVec n) :
    b.setWidth 32 &&& FieldDesc.mask ⟨r, 0, n⟩ = b.setWidth 32 := by
  simpa using FieldDesc.place_and_mask (f := ⟨r, 0, n⟩) (FieldDesc.wf_iff.mpr (by simpa using hn)) b

/-- The low bits of a word, widened again, are the word masked. -/
theorem FieldDesc.setWidth_setWidth {r : RegName} {n : Nat} (hn : n ≤ 32) (w : Word) :
    (w.setWidth n).setWidth 32 = w &&& FieldDesc.mask ⟨r, 0, n⟩ := by
  have hplace := FieldDesc.place_extract (f := ⟨r, 0, n⟩) (FieldDesc.wf_iff.mpr (by simpa using hn)) w
  rwa [BitVec.shiftLeft_zero, ← BitVec.setWidth_eq_extractLsb' hn] at hplace

/-! Reading back what field_set wrote. -/

/-- R128, R129: field_get of what field_set wrote is the value. -/
theorem fieldGet_fieldSet {v w : Word} {f : FieldDesc} {n : Nat} (hf : f.wf = true) (h : fieldSet v f n = .ok w) :
    (fieldGet w f).toNat = n := by
  obtain ⟨hn, rfl⟩ := fieldSet_ok.mp h
  have hle := FieldDesc.wf_iff.mp hf
  have hlt : n < 2 ^ 32 := hn.trans_le (Nat.pow_le_pow_right (by decide) (by omega))
  have hvalue : BitVec.ofNat 32 n = (BitVec.ofNat f.width n).setWidth 32 :=
    BitVec.eq_of_toNat_eq (by simp [Nat.mod_eq_of_lt hn])
  have hfield : (v &&& ~~~f.mask ||| BitVec.ofNat 32 n <<< f.low &&& f.mask) &&& f.mask =
      BitVec.ofNat 32 n <<< f.low := by
    rw [hvalue, f.place_and_mask hf, BitVec.and_or_distrib_right, f.place_and_mask hf, BitVec.and_assoc]
    simp
  rw [fieldGet, hfield, hvalue, f.place_ushiftRight hf, ← hvalue, BitVec.toNat_ofNat, Nat.mod_eq_of_lt hlt]

/-- R129: field_set keeps every bit outside the field. -/
theorem fieldSet_and_not_mask {v w : Word} {f : FieldDesc} {n : Nat} (h : fieldSet v f n = .ok w) :
    w &&& ~~~f.mask = v &&& ~~~f.mask := by
  obtain ⟨-, rfl⟩ := fieldSet_ok.mp h
  ext j hj
  cases hm : f.mask[j] <;> simp [hm]

/-- field_set sets no bit outside a mask that holds the word and the field. -/
theorem fieldSet_and_of_subset {v w m : Word} {f : FieldDesc} {n : Nat} (h : fieldSet v f n = .ok w)
    (hv : v &&& m = v) (hf : f.mask &&& m = f.mask) : w &&& m = w := by
  obtain ⟨-, rfl⟩ := fieldSet_ok.mp h
  rw [BitVec.and_or_distrib_right, BitVec.and_assoc _ f.mask, hf, BitVec.and_assoc, BitVec.and_comm _ m,
    ← BitVec.and_assoc, hv]

/-! The fields and the stored bits of a register. -/

/-- R8, R124: the descriptor of a register's field is the register's own, within bounds and inside the defined mask. -/
theorem fieldOf_some {r : RegName} {name : FieldName} {f : FieldDesc} (h : fieldOf r name = some f) :
    f.reg = r ∧ f.wf = true ∧ f.mask &&& defmask r = f.mask := by
  unfold fieldOf at h
  split at h <;> cases h <;> decide

/-- R74: a read-write register's bits lie within its defined mask. -/
theorem Instance.placed_and_defmask {r : RegName} (hr : isReadWrite r = true) (x : Instance) :
    x.placed r &&& defmask r = x.placed r := by
  cases r with
  | conset | conclr | stat | databuf => cases hr
  | mask0 | mask1 | mask2 | mask3 => exact FieldDesc.place_and_mask (f := ⟨.mask0, 1, 7⟩) rfl _
  | dat | adr0 | adr1 | adr2 | adr3 => exact FieldDesc.setWidth_and_mask (r := .dat) (n := 8) (by decide) _
  | sclh | scll => exact FieldDesc.setWidth_and_mask (r := .sclh) (n := 16) (by decide) _
  | mmctrl => exact FieldDesc.setWidth_and_mask (r := .mmctrl) (n := 3) (by decide) _

/-- R74, R75: a read-write register holds the defined bits of the word stored in it. -/
theorem Instance.store_placed_self {r : RegName} (hr : isReadWrite r = true) (x : Instance) (w : Word) :
    (x.store r w).placed r = w &&& defmask r := by
  cases r with
  | conset | conclr | stat | databuf => cases hr
  | mask0 | mask1 | mask2 | mask3 => exact FieldDesc.place_extract (f := ⟨.mask0, 1, 7⟩) rfl w
  | dat | adr0 | adr1 | adr2 | adr3 => exact FieldDesc.setWidth_setWidth (r := .dat) (n := 8) (by decide) w
  | sclh | scll => exact FieldDesc.setWidth_setWidth (r := .sclh) (n := 16) (by decide) w
  | mmctrl => exact FieldDesc.setWidth_setWidth (r := .mmctrl) (n := 3) (by decide) w

/-- R32: a word within the defined mask has no reserved bit set. -/
theorem reservedSet_eq_false {r : RegName} {w : Word} (h : w &&& defmask r = w) : reservedSet r w = false := by
  rw [← h, reservedSet, BitVec.and_assoc]
  simp

/-- R75: the write of a word within the defined mask stores it and records no fault. -/
theorem instrEffect_writeOf_of_defined {r : RegName} (hr : isReadWrite r = true) {w : Word} (h : w &&& defmask r = w)
    (x : Instance) : instrEffect (writeOf r w) x = x.store r w := by
  rw [instrEffect_writeOf_readWrite hr, reservedSet_eq_false h, h, Instance.raiseIf_false]

/-- Settles O60: the read returns the register's bits (`exec_readOf_next`), so FWR's word is field_set of them; it lies
within the defined mask (`fieldSet_and_of_subset`), and the write stores it whole. -/
theorem fieldWriteKeepsTheOtherBits : Obligations.FieldWriteKeepsTheOtherBits := by
  intro r name f s t x seen w v hr hf hx hread hseen hw
  obtain ⟨hreg, hwf, hmask⟩ := fieldOf_some hf
  have hplaced := x.placed_and_defmask hr
  have hset : r ≠ .conset := by rintro rfl; cases hr
  have hclr : r ≠ .conclr := by rintro rfl; cases hr
  obtain ⟨z, hz, hinsts, hsel, hdefined⟩ := exec_readOf_next hset hclr hread
  obtain rfl : z = x := Option.some.inj (hz.symm.trans hx)
  rw [fwrWord, hreg, hdefined seen hseen, hplaced] at hw
  have hword : w &&& defmask r = w := fieldSet_and_of_subset hw hplaced hmask
  have hxt : t.insts[t.sel]? = some z := by rw [hinsts, hsel, hx]
  have hexec := exec_eq (writeOf r w) hxt
  refine ⟨_, z.store r w, hexec, ?_, ?_, ?_, z.store_faults r w⟩
  · rw [← instrEffect_writeOf_of_defined hr hword, ← hsel]
    exact exec_next_at_sel hexec hxt
  · rw [Instance.store_placed_self hr, hword]
    exact fieldGet_fieldSet hwf hw
  · rw [Instance.store_placed_self hr, hword]
    exact fieldSet_and_not_mask hw

end Sys2Proof.Machine

/-! PROOF. The statements about the decode of an access (40_decode.md): the port's checks in their order (R68 to R73),
the one register an offset selects (R72), and what the selected register's read and write reach (R76, R77). -/

namespace Sys2Proof.Machine

/-! The read multiplexer (R76). -/

/-- R56: an instruction returns data exactly if it is a read. -/
theorem instrReply_isSome_iff {i : Instr} {x : Instance} {d : Word} :
    (instrReply i x d).isSome = true ↔ i.wdata? = none := by
  fun_cases instrReply i x d with
  | case1 w hw => simp [hw]
  | case2 _ hread | case3 _ hread => simp [hread]
  | case4 hread => simp [hread]

/-- R76: the reply of a read is a function of the bits behind its register and of the draw. -/
theorem instrReply_readOf_congr {r : RegName} {x x' : Instance} (h : x.placed r = x'.placed r) (d : Word) :
    instrReply (readOf r) x d = instrReply (readOf r) x' d := by
  by_cases h1 : r = .conset
  · subst h1; rfl
  · by_cases h2 : r = .conclr
    · subst h2; rfl
    · rw [instrReply_readOf h1 h2, instrReply_readOf h1 h2, h]

/-- Settles O18: a read's reply is a function of its register's bits and the draw (`instrReply_readOf_congr`). -/
theorem readDataDependsOnItsRegisterOnly : Obligations.ReadDataDependsOnItsRegisterOnly := by
  intro i s s' t t' x x' hread hx hx' hplaced hdraws h h'
  obtain ⟨z, hz, rfl⟩ := exec_next h
  obtain ⟨z', hz', rfl⟩ := exec_next h'
  obtain rfl := Option.some.inj (hz.symm.trans hx)
  obtain rfl := Option.some.inj (hz'.symm.trans hx')
  refine ⟨instrReply_isSome_iff.mpr hread, ?_⟩
  obtain ⟨-, hi⟩ | ⟨w, hw, -⟩ := instr_eq i
  · change instrReply i z _ = instrReply i z' _
    rw [hi, ← hdraws]
    exact instrReply_readOf_congr hplaced _
  · rw [hread] at hw; cases hw

/-! The routing of a write (R77). -/

/-- FAULTS lies behind no register. -/
@[simp] theorem Instance.raiseIf_placed (x : Instance) (b : Bool) (k : FaultKind) (r : RegName) :
    (x.raiseIf b k).placed r = x.placed r := by
  cases b
  · rfl
  · exact x.raise_placed k r

/-- R20, R21: CON lies behind its two views only. -/
theorem Instance.placed_with_con {r : RegName} (h1 : r ≠ .conset) (h2 : r ≠ .conclr) (x : Instance) (c : Con) :
    ({ x with con := c } : Instance).placed r = x.placed r := by
  cases r with
  | conset => exact absurd rfl h1
  | conclr => exact absurd rfl h2
  | _ => rfl

/-- R76: a read leaves the bits behind every register. -/
@[simp] theorem instrEffect_readOf_placed (r q : RegName) (x : Instance) :
    (instrEffect (readOf r) x).placed q = x.placed q := by
  rw [instrEffect_readOf]
  split
  · exact x.raise_placed _ q
  · rfl

/-- R77: a write leaves the bits behind every other register; the two views of CON count as one. -/
theorem instrEffect_writeOf_placed_ne {r q : RegName} (w : Word) (x : Instance) (hne : q ≠ r)
    (hset : r = .conset → q ≠ .conclr) (hclr : r = .conclr → q ≠ .conset) :
    (instrEffect (writeOf r w) x).placed q = x.placed q := by
  cases r with
  | stat | databuf => exact x.raise_placed _ q
  | conset => exact (Instance.placed_with_con hne (hset rfl) _ _).trans (x.raiseIf_placed _ _ q)
  | conclr => exact (Instance.placed_with_con (hclr rfl) hne _ _).trans (x.raiseIf_placed _ _ q)
  | _ => rw [instrEffect_writeOf_readWrite rfl, Instance.store_placed_ne _ _ _ _ hne, Instance.raiseIf_placed]

/-- Settles O19: the effect of an access leaves the bits behind every other register (`instrEffect_readOf_placed`,
`instrEffect_writeOf_placed_ne`). -/
theorem writeRoutesToItsRegisterOnly : Obligations.WriteRoutesToItsRegisterOnly := by
  intro i s t r x y h hx hy hne hset hclr
  obtain rfl : instrEffect i x = y := Option.some.inj ((exec_next_at_sel h hx).symm.trans hy)
  obtain ⟨-, hi⟩ | ⟨w, -, hi⟩ := instr_eq i
  · rw [hi, instrEffect_readOf_placed]
  · rw [hi]
    exact instrEffect_writeOf_placed_ne w x hne hset hclr

/-! The select (R72). -/

/-- R58: an aligned offset in the window is the offset of the register its index selects. -/
theorem offset_selectReg {off : Nat} (hwin : off < 0x40) (halign : off % 4 = 0) :
    (selectReg (BitVec.ofNat 4 (off / 4))).offset = off := by
  rw [offset_eq_index, regIndex_selectReg, BitVec.toNat_ofNat]
  omega

/-- R19, R72: no two registers have the same offset. -/
theorem offset_injective {r q : RegName} (h : r.offset = q.offset) : r = q := by
  rw [offset_eq_index, offset_eq_index] at h
  have hindex : regIndex r = regIndex q := BitVec.eq_of_toNat_eq (by omega)
  rw [← selectReg_regIndex r, hindex, selectReg_regIndex]

/-- R54, R60: the word the port forms for a 4-byte access to a register is the register's legal word. -/
theorem formAccessWord_offset (write : Bool) (r : RegName) :
    formAccessWord 4 write r.offset = legalWord write (regIndex r) := by
  cases r <;> cases write <;> rfl

/-- R72: the bytes of a 4-byte read at a register's offset decode to the read of the register. -/
theorem decode_accessBytes_read (r : RegName) : decode (accessBytes 4 r.offset .read) = .ok (readOf r, []) := by
  rw [accessBytes, formAccessWord_offset, ← encode_readOf]
  simpa using decode_encode_readOf r []

/-- R59, R72: the bytes of a 4-byte write at a register's offset decode to the write of the register, with its WDATA. -/
theorem decode_accessBytes_write (r : RegName) (w : Word) :
    decode (accessBytes 4 r.offset (.write w)) = .ok (writeOf r w, []) := by
  rw [accessBytes, formAccessWord_offset, ← encode_writeOf]
  simpa using decode_encode_writeOf r w []

/-- Settles O29: the register is the one the offset's index selects (`offset_selectReg`). -/
theorem alignedOffsetSelectsOneRegister : Obligations.AlignedOffsetSelectsOneRegister := by
  intro off hwin halign
  have hoff := offset_selectReg hwin halign
  generalize selectReg (BitVec.ofNat 4 (off / 4)) = r at hoff
  subst hoff
  exact ⟨r, rfl, fun q hq => offset_injective hq, decode_accessBytes_read r, decode_accessBytes_write r⟩

/-! An access that arrives at its instance (R67, R68). -/

/-- R68: inside the region `addr - BASE` does not wrap. -/
theorem offsetOf_eq_offIn {x : Instance} {a : BusAccess} (h : x.params.base.toNat ≤ a.addr.toNat) :
    offsetOf x.params a.addr = offIn x a :=
  BitVec.toNat_sub_of_le h

section
variable {s : State} {a : BusAccess} {rest : List Input} {n : Nat} {x : Instance}

/-- R67, R72: an access that arrives is performed on its instance. -/
theorem Arrives.step_eq (h : Arrives s a rest n x) :
    step s = performAccess a.kind a.size (offIn x a) { s with inputs := rest, sel := n } := by
  obtain ⟨hinv, hin, hx, hagent, hlo, hhi⟩ := h
  rw [step_access_in_region hinv hin hx (Instance.covers_iff.mpr ⟨hlo, hhi⟩), if_neg (not_not.mpr hagent),
    offsetOf_eq_offIn hlo]

/-- The instance an access arrives at is there. -/
theorem Arrives.inst (h : Arrives s a rest n x) : s.insts[n]? = some x := by
  obtain ⟨-, -, hx, -⟩ := h
  exact hx

/-- R69 to R71: an access that fails a check of the port is rejected with the kind of the check. -/
theorem Arrives.rejectedWith (h : Arrives s a rest n x) {k : FaultKind}
    (hcheck : portCheck a.size (offIn x a) = some k) : RejectedWith k s a rest n x := by
  refine ⟨fun hkind => ?_, fun w hkind => ?_⟩
  · simp only [h.step_eq, hkind, performAccess, hcheck]
    exact rejectedRead_eq k h.inst
  · simp only [h.step_eq, hkind, performAccess, hcheck]
    exact rejectedWrite_eq k h.inst

/-- R72: an access that passes the checks of the port runs the instruction its bytes decode to. -/
theorem Arrives.step_eq_exec (h : Arrives s a rest n x) (hcheck : portCheck a.size (offIn x a) = none) {i : Instr}
    {bs : List Byte} (hd : decode (accessBytes a.size (offIn x a) a.kind) = .ok (i, bs)) :
    step s = exec i { s with inputs := rest, sel := n } := by
  rw [h.step_eq]
  exact performAccess_eq_exec _ hcheck hd

end

/-- R69 to R71: what passes the checks is 4 bytes, aligned and in the window. -/
theorem portCheck_eq_none_iff {size off : Nat} :
    portCheck size off = none ↔ size = 4 ∧ off % 4 = 0 ∧ off < 0x40 := by
  fun_cases portCheck size off with
  | case1 hsize => simp [hsize]
  | case2 _ hmis => simp [hmis]
  | case3 _ _ hout => simp [Nat.not_lt.mpr hout]
  | case4 hsize hmis hout => simp [not_not.mp hsize, not_not.mp hmis, Nat.lt_of_not_le hout]

/-- Settles O33: the size is checked first. -/
theorem wrongSizeRecordsSizeFault : Obligations.WrongSizeRecordsSizeFault := by
  intro s a rest n x h hsize
  exact h.rejectedWith (by simp [portCheck, hsize])

/-- Settles O34: the alignment is checked after the size, before the window. -/
theorem misalignedAccessRecordsFault : Obligations.MisalignedAccessRecordsFault := by
  intro s a rest n x h hsize hmis
  exact h.rejectedWith (by simp [portCheck, hsize, hmis])

/-- Settles O35: the window is checked last. -/
theorem unmappedOffsetRecordsFault : Obligations.UnmappedOffsetRecordsFault := by
  intro s a rest n x h hsize halign hout
  exact h.rejectedWith (by simp [portCheck, hsize, halign, hout])

/-- Settles O30: the access passes the checks of the port, and its bytes decode (`Arrives.step_eq_exec`). -/
theorem stepRunsTheDecodedInstruction : Obligations.StepRunsTheDecodedInstruction := by
  intro s a rest n x i bs h hsize halign hwin hd
  exact h.step_eq_exec (portCheck_eq_none_iff.mpr ⟨hsize, halign, hwin⟩) (hsize ▸ hd)

/-- Settles O36: the region check finds no instance. -/
theorem accessOutsideEveryRegionTouchesNothing : Obligations.AccessOutsideEveryRegionTouchesNothing := by
  intro s a rest hin hout
  have hfind : findRegion a.addr s.insts 0 = none := findRegion_none.mpr fun x hx => by
    have := hout x hx
    rw [Bool.eq_false_iff, ne_eq, Instance.covers_iff]
    omega
  rw [step_cons hin]
  simp [performInput, accessStep, hfind]

/-- R72: a read or a write that passes the checks of the port decodes, to a read exactly if it is one. -/
theorem decode_accessBytes_of_portCheck {kind : AccessKind} {size off : Nat} (hcheck : portCheck size off = none)
    (hkind : kind ≠ .fetch) :
    ∃ i, decode (accessBytes size off kind) = .ok (i, []) ∧ (i.wdata? = none ↔ kind = .read) := by
  obtain ⟨rfl, halign, hwin⟩ := portCheck_eq_none_iff.mp hcheck
  obtain ⟨r, -, -, hread, hwrite⟩ := alignedOffsetSelectsOneRegister off hwin halign
  cases kind with
  | read => exact ⟨_, hread, by simp⟩
  | write w => exact ⟨_, hwrite w, by simp⟩
  | fetch => exact absurd rfl hkind

/-- Settles O32: an access either fails a check, and is rejected (`Arrives.rejectedWith`), or runs an instruction
(`Arrives.step_eq_exec`); both complete. -/
theorem everyAccessCompletesInOneStep : Obligations.EveryAccessCompletesInOneStep := by
  intro s a rest n x h hkind
  cases hcheck : portCheck a.size (offIn x a) with
  | none =>
    obtain ⟨i, hd, hread⟩ := decode_accessBytes_of_portCheck hcheck hkind
    have hexec := exec_eq i (s := { s with inputs := rest, sel := n }) h.inst
    exact ⟨_, (h.step_eq_exec hcheck hd).trans hexec, rfl, instrReply_isSome_iff.trans hread⟩
  | some k =>
    obtain ⟨hread, hwrite⟩ := h.rejectedWith hcheck
    cases hk : a.kind with
    | read => exact ⟨_, hread hk, rfl, by simp⟩
    | write w => exact ⟨_, hwrite w hk, rfl, by simp⟩
    | fetch => exact absurd hk hkind

/-! One fault kind at most (R73). -/

/-- Where the new instance has the fault set of the old one, all fault sets are as before. -/
theorem map_faults_set_of_eq {l : List Instance} {n : Nat} {x y : Instance} (hx : l[n]? = some x)
    (h : y.faults = x.faults) : (l.set n y).map Instance.faults = l.map Instance.faults := by
  obtain ⟨hn, rfl⟩ := List.getElem?_eq_some_iff.mp hx
  rw [List.map_set, h, ← List.getElem_map Instance.faults, List.set_getElem_self]
  simpa using hn

/-- Settles O37: of all a step can do to an instance, only a broken contract (`instrEffect_faults`) and a failed port
check record a kind, one each, and both are accesses. -/
theorem oneAccessRecordsAtMostOneFault : Obligations.OneAccessRecordsAtMostOneFault := by
  intro s t h
  obtain hsame | ⟨n, x, y, hx, ht, hcase⟩ := step_instances h
  · exact .inl (by rw [hsame])
  · rw [ht]
    obtain ⟨a, rest, i, _, hin, _, _, _, _, rfl⟩ | ⟨a, rest, k, hin, _, _, rfl⟩ | ⟨e, _, _, _, rfl⟩ |
      ⟨_, _, rfl⟩ := hcase
    · have hfaults := instrEffect_faults i x
      cases hkeeps : keepsContract i with
      | true => exact .inl (map_faults_set_of_eq hx (by simp [hfaults, hkeeps]))
      | false => exact .inr ⟨a, rest, n, x, brokenContractFault i, hin, hx, by simp [List.map_set, hfaults, hkeeps]⟩
    · exact .inr ⟨a, rest, n, x, k, hin, hx, List.map_set⟩
    · exact .inl (map_faults_set_of_eq hx (applyEvent_faults e x))
    · exact .inl (map_faults_set_of_eq hx rfl)

end Sys2Proof.Machine

/-! PROOF. The statements about the control registers (41_control.md): what the writes of CONSET and CONCLR make of CON
(R79, R80), and that their reads return a draw (R81, R82). -/

namespace Sys2Proof.Machine

/-! CON bit by bit (R13). -/

/-- The CON bit at a position of CONVAL; no other position holds one (R13). -/
def Con.bitAt (c : Con) : Nat → Bool
  | 2 => c.aa
  | 3 => c.si
  | 4 => c.sto
  | 5 => c.sta
  | 6 => c.i2cen
  | _ => false

/-- One bit placed at position `k` of a word. -/
theorem getLsbD_bit_shiftLeft (b : Bool) {k : Nat} (hk : k < 32) (j : Nat) :
    ((BitVec.ofBool b).setWidth 32 <<< k).getLsbD j = (decide (j = k) && b) := by
  by_cases hj : j = k
  · simp [hj, hk]
  · have hout : k ≤ j → j - k ≠ 0 := by omega
    simp +contextual [hj, hout]

/-- R13: CONVAL holds the CON bits at their positions and 0 elsewhere. -/
@[simp] theorem Con.getLsbD_conval (c : Con) (j : Nat) : c.conval.getLsbD j = c.bitAt j := by
  simp only [Con.conval, BitVec.getLsbD_or, getLsbD_bit_shiftLeft, Nat.reduceLT]
  fun_cases Con.bitAt c j with
  | case6 j h2 h3 h4 h5 h6 =>
    simp [decide_eq_false h2, decide_eq_false h3, decide_eq_false h4, decide_eq_false h5, decide_eq_false h6]
  | _ => simp

/-- R79: CONSET's defined bits are all five bits of CON. -/
theorem defmask_conset : defmask .conset = Con.conval ⟨true, true, true, true, true⟩ := by decide

/-- R80: CONCLR's defined bits are those of CON without STO. -/
theorem defmask_conclr : defmask .conclr = Con.conval ⟨true, true, false, true, true⟩ := by decide

/-- R79: CONVAL after a write of CONSET. -/
theorem Con.conval_setBy (w : Word) (c : Con) : (c.setBy w).conval = c.conval ||| (w &&& defmask .conset) := by
  rw [defmask_conset]
  refine BitVec.eq_of_getLsbD_eq fun j _ => ?_
  simp only [BitVec.getLsbD_or, BitVec.getLsbD_and, Con.getLsbD_conval]
  fun_cases Con.bitAt c j <;> simp [Con.bitAt, Bool.or_comm]

/-- R80: CONVAL after a write of CONCLR. -/
theorem Con.conval_clearBy (w : Word) (c : Con) : (c.clearBy w).conval = c.conval &&& ~~~(w &&& defmask .conclr) := by
  rw [defmask_conclr]
  refine BitVec.eq_of_getLsbD_eq fun j hj => ?_
  simp only [BitVec.getLsbD_and, BitVec.getLsbD_not, Con.getLsbD_conval, hj]
  fun_cases Con.bitAt c j <;> simp [Con.bitAt, Bool.and_comm]

/-! The write of a view of CON. -/

/-- R32, R62: a write records F_RESERVED_WRITE exactly for a 1 outside the register's defined mask. -/
theorem Instance.raiseIf_reservedSet (x : Instance) (r : RegName) (w : Word) (k : FaultKind) :
    x.raiseIf (reservedSet r w) k =
      { x with faults := if w &&& ~~~(defmask r) = 0#32 then x.faults else x.faults.add k } := by
  by_cases h : w &&& ~~~(defmask r) = 0#32 <;> simp [Instance.raiseIf_eq, reservedSet, h]

/-- R79, R80: what the write of a view of CON answers, `m` the reserved bits of the view. -/
theorem conWrite_answers {s : State} {x : Instance} {r : RegName} {m : Word} (hm : ~~~(defmask r) = m)
    (f : Word → Con → Con) (w : Word) (hx : s.insts[s.sel]? = some x) :
    conWrite r f w s = .next { s with
      insts := s.insts.set s.sel { x with
        con := f w x.con, faults := if w &&& m = 0#32 then x.faults else x.faults.add .reservedWrite }
      rdata := none } := by
  rw [conWrite_eq r f w hx, Instance.raiseIf_reservedSet, hm]

/-- Settles O11: the write is `Con.setBy` on CON (`conWrite_answers`), which is an OR on CONVAL (`Con.conval_setBy`). -/
theorem writeConsetSetsBits : Obligations.WriteConsetSetsBits := by
  refine ⟨decodeAccess_legalWord_write (regIndex .conset), fun s x w hx => ?_⟩
  exact ⟨x.con.setBy w, conWrite_answers (by decide) Con.setBy w hx, Con.setBy_aa w _, Con.setBy_si w _,
    Con.setBy_sto w _, Con.setBy_sta w _, Con.setBy_i2cen w _, Con.conval_setBy w _⟩

/-- Settles O12: the write is `Con.clearBy` on CON (`conWrite_answers`), which is an AND NOT on CONVAL
(`Con.conval_clearBy`). -/
theorem writeConclrClearsBits : Obligations.WriteConclrClearsBits := by
  refine ⟨decodeAccess_legalWord_write (regIndex .conclr), fun s x w hx => ?_⟩
  exact ⟨x.con.clearBy w, conWrite_answers (by decide) Con.clearBy w hx, Con.clearBy_aa w _, Con.clearBy_si w _,
    Con.clearBy_sto w _, Con.clearBy_sta w _, Con.clearBy_i2cen w _, Con.conval_clearBy w _⟩

/-- Settles O10: both reads are the read of a write-only register (`writeOnlyRead_eq`). -/
theorem readOfWriteOnlyRegisterFaults : Obligations.ReadOfWriteOnlyRegisterFaults := by
  refine ⟨fun w => ⟨decodeAccess_legalWord_read (regIndex .conset) w,
    decodeAccess_legalWord_read (regIndex .conclr) w⟩, ?_⟩
  rintro i (rfl | rfl) s x hx
  · exact writeOnlyRead_eq hx
  · exact writeOnlyRead_eq hx

end Sys2Proof.Machine

/-! PROOF. The statements about the status and data registers (42_status_data.md): what the reads of STAT, DAT and DATABUF
return (R83, R85, R87), what the write of DAT stores (R86), and that STAT and DATABUF are read-only (R84, R88). The read of
a readable register and the write of a read-write register are each answered once, for every such register. -/

namespace Sys2Proof.Machine

/-! The read of a readable register (R74). -/

/-- R74: a readable register's bits lie within its defined mask. -/
theorem Instance.placed_and_defmask_of_readable {r : RegName} (h1 : r ≠ .conset) (h2 : r ≠ .conclr) (x : Instance) :
    x.placed r &&& defmask r = x.placed r := by
  cases r with
  | conset => exact absurd rfl h1
  | conclr => exact absurd rfl h2
  | stat => exact FieldDesc.place_and_mask (f := ⟨.stat, 3, 5⟩) rfl _
  | databuf => exact FieldDesc.setWidth_and_mask (r := .databuf) (n := 8) (by decide) _
  | _ => exact Instance.placed_and_defmask rfl x

/-- R74: what the read of a readable register answers, `m` its reserved bits. -/
theorem readAnswers_readOf {r : RegName} {m : Word} (h1 : r ≠ .conset) (h2 : r ≠ .conclr) (hm : ~~~(defmask r) = m) :
    ReadAnswers (readOf r) (legalWord false (regIndex r)) (fun x => x.placed r) m := by
  refine ⟨fun w => by simp, fun s x hx => ?_⟩
  have heffect : instrEffect (readOf r) x = x := by simp [instrEffect_readOf, h1, h2]
  have hdraws : instrDraws (readOf r) = 1 := by simp [instrDraws]
  rw [exec_eq _ hx, heffect, set_getElem_self hx, instrReply_readOf h1 h2, x.placed_and_defmask_of_readable h1 h2, hm,
    hdraws]

/-- Settles O5: the bits behind STAT are STATC at 7:3 (`readAnswers_readOf`). -/
theorem readStatReturnsStatusCode : Obligations.ReadStatReturnsStatusCode :=
  readAnswers_readOf (r := .stat) (by decide) (by decide) (by decide)

/-- Settles O6: the bits behind DAT and DATABUF are the stored byte (`readAnswers_readOf`). -/
theorem readDataRegistersReturnTheByte : Obligations.ReadDataRegistersReturnTheByte :=
  ⟨readAnswers_readOf (r := .dat) (by decide) (by decide) (by decide),
    readAnswers_readOf (r := .databuf) (by decide) (by decide) (by decide)⟩

/-! The write of a read-write register (R75). -/

/-- Clearing a word's bits outside a field leaves the field's bits. -/
theorem FieldDesc.extract_and_mask {f : FieldDesc} (h : f.wf = true) (w : Word) :
    (w &&& f.mask).extractLsb' f.low f.width = w.extractLsb' f.low f.width := by
  apply BitVec.eq_of_getLsbD_eq
  intro j hj
  simp [f.getLsbD_mask h, hj]

/-- The same for the low bits of a word. -/
theorem FieldDesc.setWidth_of_and_mask {r : RegName} {n : Nat} (hn : n ≤ 32) (w : Word) :
    (w &&& FieldDesc.mask ⟨r, 0, n⟩).setWidth n = w.setWidth n := by
  have hextract := FieldDesc.extract_and_mask (f := ⟨r, 0, n⟩) (FieldDesc.wf_iff.mpr (by simpa using hn)) w
  rwa [← BitVec.setWidth_eq_extractLsb' hn, ← BitVec.setWidth_eq_extractLsb' hn] at hextract

/-- R75: what is stored of a word are its defined bits, whatever its reserved bits are. -/
theorem Instance.store_and_defmask (x : Instance) (r : RegName) (w : Word) :
    x.store r (w &&& defmask r) = x.store r w := by
  have hmask : (w &&& 0xFE#32).extractLsb' 1 7 = w.extractLsb' 1 7 :=
    FieldDesc.extract_and_mask (f := ⟨.mask0, 1, 7⟩) rfl w
  have hbyte : (w &&& 0xFF#32).setWidth 8 = w.setWidth 8 :=
    FieldDesc.setWidth_of_and_mask (r := .dat) (n := 8) (by decide) w
  have hclock : (w &&& 0xFFFF#32).setWidth 16 = w.setWidth 16 :=
    FieldDesc.setWidth_of_and_mask (r := .sclh) (n := 16) (by decide) w
  have hmonitor : (w &&& 0x07#32).setWidth 3 = w.setWidth 3 :=
    FieldDesc.setWidth_of_and_mask (r := .mmctrl) (n := 3) (by decide) w
  cases r with
  | conset | conclr | stat | databuf => rfl
  | mask0 | mask1 | mask2 | mask3 => simp only [Instance.store, defmask, hmask]
  | dat | adr0 | adr1 | adr2 | adr3 => simp only [Instance.store, defmask, hbyte]
  | sclh | scll => simp only [Instance.store, defmask, hclock]
  | mmctrl => simp only [Instance.store, defmask, hmonitor]

/-- R75: what the write of a read-write register answers, `m` its reserved bits and `upd` what is stored. -/
theorem writeAnswers_writeOf {r : RegName} {m : Word} {upd : Word → Instance → Instance} (hr : isReadWrite r = true)
    (hm : ~~~(defmask r) = m) (hupd : ∀ w x, x.store r w = upd w x) :
    WriteAnswers (writeOf r) (legalWord true (regIndex r)) m upd := by
  refine ⟨fun w => by simp, fun s x w hx => ?_⟩
  have heffect : instrEffect (writeOf r w) x =
      { upd w x with faults := if w &&& m = 0#32 then x.faults else x.faults.add .reservedWrite } := by
    rw [instrEffect_writeOf_readWrite hr, Instance.store_and_defmask, ← Instance.raiseIf_store,
      Instance.raiseIf_reservedSet, Instance.store_faults, hm, hupd]
  rw [exec_eq _ hx, heffect]
  simp [instrReply, instrDraws]

/-- Settles O14: DAT is read-write, and its stored form is the low byte (`writeAnswers_writeOf`). -/
theorem writeDatStoresTheByte : Obligations.WriteDatStoresTheByte :=
  writeAnswers_writeOf (r := .dat) rfl (by decide) fun _ _ => rfl

/-! The write of a read-only register (R84, R88). -/

/-- Settles O13: both writes are the write of a read-only register (`readOnlyWrite_eq`). -/
theorem writeOfReadOnlyRegisterFaults : Obligations.WriteOfReadOnlyRegisterFaults := by
  refine ⟨fun w => ⟨decodeAccess_legalWord_write (regIndex .stat) w,
    decodeAccess_legalWord_write (regIndex .databuf) w⟩, ?_⟩
  rintro i w (rfl | rfl) s x hx
  · exact readOnlyWrite_eq hx
  · exact readOnlyWrite_eq hx

end Sys2Proof.Machine

/-! PROOF. The statements about the address and mask families (43_address_mask.md): all eight registers are read-write, so
each is an instance of `readAnswers_readOf` (R90 to R104) and of `writeAnswers_writeOf` (R91 to R105). -/

namespace Sys2Proof.Machine

/-- Settles O7: the bits behind ADRn are that member's byte (`readAnswers_readOf`). -/
theorem readAddressFamilyReturnsItsMember : Obligations.ReadAddressFamilyReturnsItsMember :=
  ⟨readAnswers_readOf (r := .adr0) (by decide) (by decide) (by decide),
    readAnswers_readOf (r := .adr1) (by decide) (by decide) (by decide),
    readAnswers_readOf (r := .adr2) (by decide) (by decide) (by decide),
    readAnswers_readOf (r := .adr3) (by decide) (by decide) (by decide)⟩

/-- Settles O8: the bits behind MASKn are that member's seven bits at 7:1 (`readAnswers_readOf`). -/
theorem readMaskFamilyReturnsItsMember : Obligations.ReadMaskFamilyReturnsItsMember :=
  ⟨readAnswers_readOf (r := .mask0) (by decide) (by decide) (by decide),
    readAnswers_readOf (r := .mask1) (by decide) (by decide) (by decide),
    readAnswers_readOf (r := .mask2) (by decide) (by decide) (by decide),
    readAnswers_readOf (r := .mask3) (by decide) (by decide) (by decide)⟩

/-- Settles O15: the stored form of ADRn is the low byte of WDATA (`writeAnswers_writeOf`). -/
theorem writeAddressFamilyStoresItsMember : Obligations.WriteAddressFamilyStoresItsMember :=
  ⟨writeAnswers_writeOf (r := .adr0) rfl (by decide) fun _ _ => rfl,
    writeAnswers_writeOf (r := .adr1) rfl (by decide) fun _ _ => rfl,
    writeAnswers_writeOf (r := .adr2) rfl (by decide) fun _ _ => rfl,
    writeAnswers_writeOf (r := .adr3) rfl (by decide) fun _ _ => rfl⟩

/-- Settles O16: the stored form of MASKn is WDATA[7:1] (`writeAnswers_writeOf`). -/
theorem writeMaskFamilyStoresItsMember : Obligations.WriteMaskFamilyStoresItsMember :=
  ⟨writeAnswers_writeOf (r := .mask0) rfl (by decide) fun _ _ => rfl,
    writeAnswers_writeOf (r := .mask1) rfl (by decide) fun _ _ => rfl,
    writeAnswers_writeOf (r := .mask2) rfl (by decide) fun _ _ => rfl,
    writeAnswers_writeOf (r := .mask3) rfl (by decide) fun _ _ => rfl⟩

end Sys2Proof.Machine

/-! PROOF. The statements about the clock and monitor registers (44_clock_monitor.md): SCLH, SCLL and MMCTRL are read-write,
so each is an instance of `readAnswers_readOf` (R106 to R110) and of `writeAnswers_writeOf` (R107 to R111). -/

namespace Sys2Proof.Machine

/-- Settles O9: the bits behind SCLH and SCLL are the stored sixteen, behind MMCTRL the stored three
(`readAnswers_readOf`). -/
theorem readClockAndMonitorReturnStoredBits : Obligations.ReadClockAndMonitorReturnStoredBits :=
  ⟨readAnswers_readOf (r := .sclh) (by decide) (by decide) (by decide),
    readAnswers_readOf (r := .scll) (by decide) (by decide) (by decide),
    readAnswers_readOf (r := .mmctrl) (by decide) (by decide) (by decide)⟩

/-- Settles O17: the stored form of SCLH and SCLL is WDATA[15:0], of MMCTRL WDATA[2:0] (`writeAnswers_writeOf`). -/
theorem writeClockAndMonitorStoreBits : Obligations.WriteClockAndMonitorStoreBits :=
  ⟨writeAnswers_writeOf (r := .sclh) rfl (by decide) fun _ _ => rfl,
    writeAnswers_writeOf (r := .scll) rfl (by decide) fun _ _ => rfl,
    writeAnswers_writeOf (r := .mmctrl) rfl (by decide) fun _ _ => rfl⟩

end Sys2Proof.Machine

/-! PROOF. The statements about the interface to the protocol engine (45_engine_interface.md): what the block presents to the
engine (R112), what the engine's events change and leave (R114 to R122), and the races of an event with a write (R123). -/

namespace Sys2Proof.Machine

/-! What the engine sees and what a read returns (R74, R112). -/

/-- The bits of a field, placed in a word, are read back at the field's place. -/
theorem FieldDesc.extract_place {f : FieldDesc} (h : f.wf = true) (b : BitVec f.width) :
    (b.setWidth 32 <<< f.low).extractLsb' f.low f.width = b := by
  have hle := FieldDesc.wf_iff.mp h
  apply BitVec.eq_of_getLsbD_eq
  intro j hj
  simp [hj, show f.low + j < 32 by omega]

/-- R74: RDATA of a read holds the stored bits `b` of a register whose defined bits are one run of bits `f`. -/
theorem exec_readOf_field {r : RegName} {f : FieldDesc} {s t : State} {x : Instance} {v : Word} {b : BitVec f.width}
    (hf : f.wf = true) (hmask : defmask r = f.mask) (hplaced : x.placed r = b.setWidth 32 <<< f.low)
    (hr : isReadWrite r = true) (hx : s.insts[s.sel]? = some x) (h : exec (readOf r) s = .next t)
    (hv : t.rdata = some v) : v.extractLsb' f.low f.width = b := by
  obtain ⟨z, hz, -, -, hreply⟩ :=
    exec_readOf_next (r := r) (by rintro rfl; cases hr) (by rintro rfl; cases hr) h
  obtain rfl : z = x := Option.some.inj (hz.symm.trans hx)
  calc v.extractLsb' f.low f.width
      = (v &&& f.mask).extractLsb' f.low f.width := (FieldDesc.extract_and_mask hf v).symm
    _ = (z.placed r).extractLsb' f.low f.width := by
        rw [← hmask, hreply v hv, Instance.placed_and_defmask hr]
    _ = b := by rw [hplaced, FieldDesc.extract_place hf]

/-- The same for a register that is stored from bit 0 on. -/
theorem exec_readOf_low {r : RegName} {n : Nat} {s t : State} {x : Instance} {v : Word} {b : BitVec n}
    (hn : n ≤ 32) (hmask : defmask r = FieldDesc.mask ⟨r, 0, n⟩) (hplaced : x.placed r = b.setWidth 32)
    (hr : isReadWrite r = true) (hx : s.insts[s.sel]? = some x) (h : exec (readOf r) s = .next t)
    (hv : t.rdata = some v) : v.extractLsb' 0 n = b :=
  exec_readOf_field (f := ⟨r, 0, n⟩) (FieldDesc.wf_iff.mpr (by simpa using hn)) hmask
    (hplaced.trans (BitVec.shiftLeft_zero _).symm) hr hx h hv

/-- Settles O23: the outputs are the stored bits, and a read returns them at the place of the register's one run of defined
bits (`exec_readOf_field`). -/
theorem engineSeesWhatSoftwareReads : Obligations.EngineSeesWhatSoftwareReads := by
  refine ⟨fun x => by simp [Instance.outputs], fun i s t x v hx h hv => ?_⟩
  have hlow {n : Nat} {b : BitVec n} (r : RegName) (hi : i = readOf r) (hn : n ≤ 32)
      (hmask : defmask r = FieldDesc.mask ⟨r, 0, n⟩) (hplaced : x.placed r = b.setWidth 32)
      (hr : isReadWrite r = true) : v.extractLsb' 0 n = b :=
    exec_readOf_low hn hmask hplaced hr hx (hi ▸ h) hv
  have hmasked {b : BitVec 7} (r : RegName) (hi : i = readOf r) (hmask : defmask r = FieldDesc.mask ⟨r, 1, 7⟩)
      (hplaced : x.placed r = b.setWidth 32 <<< 1) (hr : isReadWrite r = true) : v.extractLsb' 1 7 = b :=
    exec_readOf_field (f := ⟨r, 1, 7⟩) rfl hmask hplaced hr hx (hi ▸ h) hv
  refine ⟨fun hi => hlow .dat hi (by decide) rfl rfl rfl, fun hi => hlow .adr0 hi (by decide) rfl rfl rfl,
    fun hi => hlow .adr1 hi (by decide) rfl rfl rfl, fun hi => hlow .adr2 hi (by decide) rfl rfl rfl,
    fun hi => hlow .adr3 hi (by decide) rfl rfl rfl, fun hi => hmasked .mask0 hi rfl rfl rfl,
    fun hi => hmasked .mask1 hi rfl rfl rfl, fun hi => hmasked .mask2 hi rfl rfl rfl,
    fun hi => hmasked .mask3 hi rfl rfl rfl, fun hi => hlow .sclh hi (by decide) rfl rfl rfl,
    fun hi => hlow .scll hi (by decide) rfl rfl rfl, fun hi => ?_⟩
  have hmonitor : v.extractLsb' 0 3 = x.mmctrl := hlow .mmctrl hi (by decide) rfl rfl rfl
  simp [Instance.outputs, ← hmonitor]

/-! What an engine event does (R115 to R122). -/

/-- R122: when an engine event may occur. -/
theorem Instance.engineMayAct_iff {x : Instance} :
    x.engineMayAct = true ↔ (x.params.engineGated = true → x.con.i2cen = true) := by
  cases h : x.params.engineGated <;> simp [Instance.engineMayAct, h]

section
variable {s : State} {n : Nat} {e : EngineEvent} {rest : List Input} {x : Instance}

/-- R115, R122: the step of an engine event of an instance that is there. -/
theorem step_engine_eq (hin : s.inputs = .engine n e :: rest) (hx : s.insts[n]? = some x) :
    step s = .next { s with
      insts := if x.engineMayAct then s.insts.set n (applyEvent e x) else s.insts
      inputs := rest
      rdata := none } := by
  rw [step_cons hin]
  simp [performInput, engineStep, hx]

/-- R12, R115: the step of an engine event leaves every instance as it was or with the event's effect. -/
theorem step_engine_at {t : State} {m : Nat} (hin : s.inputs = .engine n e :: rest) (h : step s = .next t)
    (hx : s.insts[m]? = some x) : t.insts[m]? = some x ∨ t.insts[m]? = some (applyEvent e x) := by
  obtain ⟨y, hy⟩ : ∃ y, t.insts[m]? = some y := by
    have hm := (List.getElem?_eq_some_iff.mp hx).1
    exact ⟨_, List.getElem?_eq_getElem (step_insts_length h ▸ hm)⟩
  rw [hy]
  cases step_instance_at h hx hy with
  | stays => exact .inl rfl
  | engine input =>
    obtain ⟨he, -⟩ := List.cons.inj (hin.symm.trans input)
    obtain ⟨-, rfl⟩ := Input.engine.inj he
    exact .inr rfl
  | instr input | portFault input | reset input => cases hin.symm.trans input

end

/-- Settles O41: each event is one that may occur (`step_engine_eq`), and its effect is the one named. -/
theorem engineEventsChangeTheirTargetOnly : Obligations.EngineEventsChangeTheirTargetOnly := by
  intro s n rest x hx hgate e y hin hevent
  have hy : y = applyEvent e x := by
    obtain ⟨rfl, rfl⟩ | ⟨rfl, rfl⟩ | ⟨rfl, rfl⟩ | ⟨c, rfl, rfl⟩ | ⟨b, rfl, rfl⟩ | ⟨b, rfl, rfl⟩ := hevent <;> rfl
  subst hy
  refine ⟨?_, ?_⟩
  · rw [step_engine_eq hin hx, if_pos (Instance.engineMayAct_iff.mpr hgate)]
  · rintro rfl
    rfl

/-- Settles O42: the event may not occur (`step_engine_eq`). -/
theorem gatedEngineChangesNothingWhileDisabled : Obligations.GatedEngineChangesNothingWhileDisabled := by
  intro s n e rest x hin hx hgated hdisabled
  rw [step_engine_eq hin hx, if_neg (by simp [Instance.engineMayAct, hgated, hdisabled])]

/-! What no engine event changes (R114). -/

/-- R114, R115: `y` has the configuration and the faults of `x`, SI has not been cleared, STA and STO not set. -/
def Instance.EngineKeeps (x y : Instance) : Prop :=
  y.con.aa = x.con.aa ∧ y.con.i2cen = x.con.i2cen ∧
  y.adr0 = x.adr0 ∧ y.adr1 = x.adr1 ∧ y.adr2 = x.adr2 ∧ y.adr3 = x.adr3 ∧
  y.mask0 = x.mask0 ∧ y.mask1 = x.mask1 ∧ y.mask2 = x.mask2 ∧ y.mask3 = x.mask3 ∧
  y.sclh = x.sclh ∧ y.scll = x.scll ∧ y.mmctrl = x.mmctrl ∧
  (x.con.si = true → y.con.si = true) ∧ (x.con.sta = false → y.con.sta = false) ∧
  (x.con.sto = false → y.con.sto = false) ∧ y.faults = x.faults

/-- An event of another instance, or one that may not occur. -/
theorem Instance.EngineKeeps.refl (x : Instance) : x.EngineKeeps x := by
  simp [Instance.EngineKeeps]

/-- R116 to R121: what an event sets or clears is none of these, or changes in the one direction left open. -/
theorem engineKeeps_applyEvent (e : EngineEvent) (x : Instance) : x.EngineKeeps (applyEvent e x) := by
  cases e <;> simp [Instance.EngineKeeps, applyEvent]

/-- Settles O43: an instance stays or takes the event's effect (`step_engine_at`), and no event's effect changes the
configuration (`engineKeeps_applyEvent`). -/
theorem engineKeepsConfiguration : Obligations.EngineKeepsConfiguration := by
  intro s t n e rest hin h m x hx
  obtain hy | hy := step_engine_at hin h hx
  · exact ⟨x, hy, Instance.EngineKeeps.refl x⟩
  · exact ⟨applyEvent e x, hy, engineKeeps_applyEvent e x⟩

/-! An event and a write that race are two steps in either order (R123). -/

/-- R60: the write access of a register is the access of its legal word. -/
theorem writeAccess_eq (p : Params) (r : RegName) (w : Word) :
    writeAccess p r w = .access (accessOfWord p (legalWord true (regIndex r)) w) := by
  cases r <;> rfl

/-- One step completes, after which the platform is legal, instance `n` is `y`, and `rest` is still to arrive. -/
def StepLeaves (s : State) (n : Nat) (y : Instance) (rest : List Input) : Prop :=
  ∃ t, step s = .next t ∧ t.Inv ∧ t.insts[n]? = some y ∧ t.inputs = rest

section
variable {s : State} {n : Nat} {x : Instance} {rest : List Input}

/-- R67, R77: a step that writes a register of instance `n`. -/
theorem stepLeaves_write (hinv : s.Inv) (hx : s.insts[n]? = some x) {r : RegName} {w : Word}
    (hin : s.inputs = writeAccess x.params r w :: rest) : StepLeaves s n (instrEffect (writeOf r w) x) rest := by
  have hdecode : decodeAccess (legalWord true (regIndex r)) w = .ok (writeOf r w) := by simp
  have hstep : step s = exec (writeOf r w) { s with inputs := rest, sel := n } := by
    rw [step_cons hin, writeAccess_eq]
    exact accessStep_accessOfWord (s := { s with inputs := rest }) hinv hx hdecode
  rw [exec_eq (writeOf r w) (s := { s with inputs := rest, sel := n }) hx] at hstep
  exact ⟨_, hstep, (stepKeepsThePlatform s _ hinv hstep).1,
    List.getElem?_set_self (List.getElem?_eq_some_iff.mp hx).1, rfl⟩

/-- R115: a step of an engine event of instance `n` that may occur. -/
theorem stepLeaves_engine (hinv : s.Inv) (hx : s.insts[n]? = some x) (hmay : x.engineMayAct = true) {e : EngineEvent}
    (hin : s.inputs = .engine n e :: rest) : StepLeaves s n (applyEvent e x) rest := by
  have hstep := step_engine_eq hin hx
  rw [if_pos hmay] at hstep
  exact ⟨_, hstep, (stepKeepsThePlatform s _ hinv hstep).1,
    List.getElem?_set_self (List.getElem?_eq_some_iff.mp hx).1, rfl⟩

/-- Two steps that complete, one after the other. -/
theorem run_two {s t u : State} (h : step s = .next t) (h' : step t = .next u) : core.run 2 s = .next u := by
  have hs : core.step s = .next t := h
  have ht : core.step t = .next u := h'
  simp only [Host.Core.run, hs, ht]

/-- R123: a write and an engine event of the same instance, the write first. -/
theorem run_write_engine (hinv : s.Inv) (hx : s.insts[n]? = some x) {r : RegName} {w : Word} {e : EngineEvent}
    (hmay : (instrEffect (writeOf r w) x).engineMayAct = true) :
    ∃ t, core.run 2 { s with inputs := writeAccess x.params r w :: .engine n e :: rest } = .next t ∧
      t.insts[n]? = some (applyEvent e (instrEffect (writeOf r w) x)) ∧ t.inputs = rest := by
  obtain ⟨t, ht, htinv, hty, htin⟩ := stepLeaves_write (rest := .engine n e :: rest)
    (s := { s with inputs := writeAccess x.params r w :: .engine n e :: rest }) hinv hx rfl
  obtain ⟨u, hu, -, huy, huin⟩ := stepLeaves_engine htinv hty hmay htin
  exact ⟨u, run_two ht hu, huy, huin⟩

/-- R123: the same two, the event first. -/
theorem run_engine_write (hinv : s.Inv) (hx : s.insts[n]? = some x) {r : RegName} {w : Word} {e : EngineEvent}
    (hmay : x.engineMayAct = true) :
    ∃ t, core.run 2 { s with inputs := .engine n e :: writeAccess x.params r w :: rest } = .next t ∧
      t.insts[n]? = some (instrEffect (writeOf r w) (applyEvent e x)) ∧ t.inputs = rest := by
  obtain ⟨t, ht, htinv, hty, htin⟩ := stepLeaves_engine (e := e) (rest := writeAccess x.params r w :: rest)
    (s := { s with inputs := .engine n e :: writeAccess x.params r w :: rest }) hinv hx hmay rfl
  obtain ⟨u, hu, -, huy, huin⟩ := stepLeaves_write htinv hty (applyEvent_params e x ▸ htin)
  exact ⟨u, run_two ht hu, huy, huin⟩

end

/-- Settles O44: the later of the two decides SI (`run_write_engine`, `run_engine_write`); the write of 0x08 keeps I2CEN,
so the event may occur after it. -/
theorem raceOfClearingAndSettingSi : Obligations.RaceOfClearingAndSettingSi := by
  intro s n x rest hinv hx hgate
  have hcon : (instrEffect (writeOf .conclr 0x08#32) x).con = x.con.clearBy 0x08#32 := by
    simp [instrEffect_writeOf_con]
  have hmay : (instrEffect (writeOf .conclr 0x08#32) x).engineMayAct = true := by
    simpa [Instance.engineMayAct_iff, hcon] using hgate
  obtain ⟨t, ht, hty, htin⟩ := run_write_engine (rest := rest) (e := .setSI) hinv hx hmay
  obtain ⟨u, hu, huy, huin⟩ := run_engine_write (rest := rest) (e := .setSI) (r := .conclr) (w := 0x08#32) hinv hx
    (Instance.engineMayAct_iff.mpr hgate)
  refine ⟨⟨t, _, ht, hty, rfl, htin⟩, u, _, hu, huy, ?_, huin⟩
  simp [instrEffect_writeOf_con]

/-- R75, R86: after the write of a byte to DAT, DAT is the byte. -/
theorem instrEffect_writeOf_dat (b : Byte) (x : Instance) :
    (instrEffect (writeOf .dat (b.setWidth 32)) x).dat = b := by
  rw [instrEffect_writeOf_readWrite rfl, Instance.store_and_defmask]
  simp [Instance.store]

/-- Settles O45: the later of the two decides DAT (`run_write_engine`, `run_engine_write`); the write keeps CON, so the
event may occur after it. -/
theorem raceOfWritingAndLoadingDat : Obligations.RaceOfWritingAndLoadingDat := by
  intro s n x rest b1 b2 hinv hx hgate
  have hmay : (instrEffect (writeOf .dat (b1.setWidth 32)) x).engineMayAct = true := by
    simpa [Instance.engineMayAct_iff, instrEffect_writeOf_con] using hgate
  obtain ⟨t, ht, hty, htin⟩ := run_write_engine (rest := rest) (e := .loadDAT b2) hinv hx hmay
  obtain ⟨u, hu, huy, huin⟩ := run_engine_write (rest := rest) (e := .loadDAT b2) (r := .dat) (w := b1.setWidth 32)
    hinv hx (Instance.engineMayAct_iff.mpr hgate)
  exact ⟨⟨t, _, ht, hty, rfl, htin⟩, u, _, hu, huy, instrEffect_writeOf_dat b1 _, huin⟩

end Sys2Proof.Machine

/-! PROOF. The statements about the source's functions on addresses and fields (46_field_access.md): the laws of field_get
and field_set (R128, R129, R132), the table of fields (R124, R125), the addresses (R126, R127) and the two requests (R130,
R131). -/

namespace Sys2Proof.Machine

/-! The fields of a register (R124, R125, R128, R132). -/

/-- R129: field_set fails exactly for a value that does not fit the field. -/
theorem fieldSet_error_iff {v : Word} {f : FieldDesc} {n : Nat} :
    fieldSet v f n = .error .valueOutOfRange ↔ 2 ^ f.width ≤ n := by
  by_cases h : 2 ^ f.width ≤ n <;> simp [fieldSet, h]

/-- Settles O55: field_set answers exactly below 2^width (`fieldSet_ok`, `fieldSet_error_iff`), and then field_get reads
the value back (`fieldGet_fieldSet`) and the other bits stay (`fieldSet_and_not_mask`). -/
theorem fieldSetGetRoundTrip : Obligations.FieldSetGetRoundTrip := by
  intro r name f hf v n
  obtain ⟨-, hwf, -⟩ := fieldOf_some hf
  refine ⟨fun hn => ?_, fieldSet_error_iff.symm⟩
  have hset := fieldSet_ok (v := v).mpr ⟨hn, rfl⟩
  exact ⟨_, hset, fieldGet_fieldSet hwf hset, fieldSet_and_not_mask hset⟩

/-- R128: field_get is the field's bits, widened to a word. -/
theorem fieldGet_eq_extract {f : FieldDesc} (h : f.wf = true) (v : Word) :
    fieldGet v f = (v.extractLsb' f.low f.width).setWidth 32 := by
  rw [fieldGet, ← FieldDesc.place_extract h, FieldDesc.place_ushiftRight h]

/-- R128: the range of field_get. -/
theorem fieldGet_lt {f : FieldDesc} (h : f.wf = true) (v : Word) : (fieldGet v f).toNat < 2 ^ f.width := by
  have hwidth : f.width ≤ 32 := by have := FieldDesc.wf_iff.mp h; omega
  rw [fieldGet_eq_extract h, BitVec.toNat_setWidth_of_le hwidth]
  exact BitVec.isLt _

/-- R128: field_get of a field inside a mask is decided by the word's bits in that mask. -/
theorem fieldGet_congr {f : FieldDesc} {m v w : Word} (hf : f.mask &&& m = f.mask) (h : v &&& m = w &&& m) :
    fieldGet v f = fieldGet w f := by
  have hmask : v &&& f.mask = w &&& f.mask := by
    rw [← hf, BitVec.and_comm f.mask, ← BitVec.and_assoc, h, BitVec.and_assoc]
  rw [fieldGet, hmask, fieldGet]

/-- Settles O56: the range is `fieldGet_lt`; the words agree on the defined mask (`reply_and_mask`), which holds the field
(`fieldOf_some`). -/
theorem fieldGetIgnoresReservedBits : Obligations.FieldGetIgnoresReservedBits := by
  intro r name f hf v d
  obtain ⟨-, hwf, hmask⟩ := fieldOf_some hf
  exact ⟨fieldGet_lt hwf v, fieldGet_congr hmask (reply_and_mask v d (defmask r))⟩

/-- R124: every field has at least one bit. -/
theorem fieldOf_width_pos {r : RegName} {name : FieldName} {f : FieldDesc} (h : fieldOf r name = some f) :
    1 ≤ f.width := by
  unfold fieldOf at h
  split at h <;> cases h <;> decide

/-- A row of the table of R124, with the derived values of R8, as a statement that computes. -/
theorem hasField_iff {r : RegName} {name : FieldName} {low width high : Nat} {mask : Word} :
    HasField r name low width high mask ↔ fieldOf r name = some ⟨r, low, width⟩ ∧
      FieldDesc.high ⟨r, low, width⟩ = high ∧ FieldDesc.mask ⟨r, low, width⟩ = mask := by
  constructor
  · rintro ⟨f, hf, rfl, rfl, rfl, hhigh, hmask⟩
    exact ⟨hf, hhigh, hmask⟩
  · rintro ⟨hf, hhigh, hmask⟩
    exact ⟨_, hf, rfl, rfl, rfl, hhigh, hmask⟩

/-- The mask of a register's field; no bit where the register has no such field. -/
def fieldMask (r : RegName) (name : FieldName) : Word := ((fieldOf r name).map FieldDesc.mask).getD 0#32

theorem fieldMask_of_some {r : RegName} {name : FieldName} {f : FieldDesc} (h : fieldOf r name = some f) :
    fieldMask r name = f.mask := by
  simp [fieldMask, h]

theorem FieldName.mem_all (name : FieldName) : name ∈ FieldName.all := by cases name <;> decide

/-- R125: no two fields of a register overlap. -/
theorem fieldMask_disjoint (r : RegName) {a b : FieldName} (h : a ≠ b) : fieldMask r a &&& fieldMask r b = 0#32 := by
  have hpairs : FieldName.all.Pairwise fun a b => fieldMask r a &&& fieldMask r b = 0#32 := by
    cases r <;> decide
  have hsymm : Std.Symm fun a b => fieldMask r a &&& fieldMask r b = 0#32 :=
    ⟨fun a b hab => (BitVec.and_comm _ _).trans hab⟩
  exact hpairs.forall a.mem_all b.mem_all h

/-- R125: the union of a register's field masks is its defined mask. -/
theorem fieldMasks_union (r : RegName) :
    (FieldName.all.filterMap (fieldOf r)).foldl (fun m f => m ||| f.mask) 0#32 = defmask r := by
  cases r <;> decide

/-- Settles O57: the rows are read off `fieldOf` (`hasField_iff`); the bounds hold of every descriptor of a register
(`fieldOf_some`), and its masks are disjoint (`fieldMask_disjoint`) and make up the defined mask (`fieldMasks_union`). -/
theorem fieldsPartitionTheDefinedMask : Obligations.FieldsPartitionTheDefinedMask := by
  refine ⟨?_, fun r => ⟨fun a f hf => ?_, fun a b f g hf hg hab => ?_, fieldMasks_union r⟩⟩
  · simp only [hasField_iff]
    and_intros <;> decide
  · obtain ⟨-, hwf, -⟩ := fieldOf_some hf
    have hpos := fieldOf_width_pos hf
    have hhigh := FieldDesc.high_succ hpos
    exact ⟨hpos, by omega, FieldDesc.high_le hwf, hhigh⟩
  · rw [← fieldMask_of_some hf, ← fieldMask_of_some hg]
    exact fieldMask_disjoint r hab

/-! The names of the registers and their addresses (R58, R126, R127). -/

end Sys2Proof.Machine

namespace Sys2Proof

/-- A register's name as text (R58). -/
def RegName.text : RegName → String
  | .conset => "CONSET" | .stat => "STAT" | .dat => "DAT" | .adr0 => "ADR0"
  | .sclh => "SCLH" | .scll => "SCLL" | .conclr => "CONCLR" | .mmctrl => "MMCTRL"
  | .adr1 => "ADR1" | .adr2 => "ADR2" | .adr3 => "ADR3" | .databuf => "DATABUF"
  | .mask0 => "MASK0" | .mask1 => "MASK1" | .mask2 => "MASK2" | .mask3 => "MASK3"

theorem RegName.mem_all (r : RegName) : r ∈ RegName.all := by cases r <;> decide

end Sys2Proof

namespace Sys2Proof.Machine

@[simp] theorem regOfString_text (r : RegName) : regOfString r.text = some r := by cases r <;> decide

/-- R58: only the text of a register's name names the register. -/
theorem eq_text_of_regOfString {name : String} {r : RegName} (h : regOfString name = some r) : name = r.text := by
  revert h
  fun_cases regOfString name <;> rintro ⟨⟩ <;> assumption

/-- R58, R19: the written-out names are the texts of all registers, each with its offset. -/
theorem namedOffsets_eq_map : namedOffsets = RegName.all.map fun r => (r.text, BitVec.ofNat 32 r.offset) := by decide

/-- R40: a register's address is BASE plus the offset of R19. -/
theorem registerWordAddress_eq (base : Word) (r : RegName) :
    registerWordAddress base r = base + BitVec.ofNat 32 r.offset :=
  congrArg (base + ·) (by cases r <;> decide)

/-- R126: register_address of a register's name is BASE plus its offset. -/
theorem registerAddress_text (base : Word) (r : RegName) :
    registerAddress base r.text = .ok (base + BitVec.ofNat 32 r.offset) := by
  simp [registerAddress, registerWordAddress_eq]

/-- R126: register_address of any other string fails. -/
theorem registerAddress_of_ne_text (base : Word) {name : String} (h : ∀ r : RegName, name ≠ r.text) :
    registerAddress base name = .error .invalidRegister := by
  have hnone : regOfString name = none :=
    Option.eq_none_iff_forall_ne_some.mpr fun r hr => h r (eq_text_of_regOfString hr)
  simp [registerAddress, hnone]

/-- R89: neither family has a member outside 0 to 3. -/
theorem familyMember_eq_none {n : Int} (h : n < 0 ∨ 3 < n) : adrMember n = none ∧ maskMember n = none := by
  obtain ⟨h0, h1, h2, h3⟩ : n ≠ 0 ∧ n ≠ 1 ∧ n ≠ 2 ∧ n ≠ 3 := by omega
  simp [adrMember, maskMember, h0, h1, h2, h3]

/-- Settles O58: the 16 names are the texts of the registers (`namedOffsets_eq_map`); a member of a family has its
register's address (`registerWordAddress_eq`). -/
theorem registerAddressesFollowTheTable : Obligations.RegisterAddressesFollowTheTable := by
  intro base
  have haddr := registerWordAddress_eq base
  refine ⟨fun p hp => ?_, fun name hname => ?_, haddr,
    congrArg _ (haddr .adr0), congrArg _ (haddr .adr1), congrArg _ (haddr .adr2), congrArg _ (haddr .adr3),
    congrArg _ (haddr .mask0), congrArg _ (haddr .mask1), congrArg _ (haddr .mask2), congrArg _ (haddr .mask3),
    fun n hn => ?_⟩
  · rw [namedOffsets_eq_map] at hp
    obtain ⟨r, -, rfl⟩ := List.mem_map.mp hp
    exact registerAddress_text base r
  · refine registerAddress_of_ne_text base fun r => hname (r.text, BitVec.ofNat 32 r.offset) ?_
    rw [namedOffsets_eq_map]
    exact List.mem_map_of_mem r.mem_all
  · simp [adrAddress, maskAddress, familyMember_eq_none hn]

/-! The two requests (R130, R131). -/

/-- A field's name as text (R124). -/
def FieldName.text : FieldName → String
  | .aa => "AA" | .si => "SI" | .sto => "STO" | .sta => "STA" | .i2cen => "I2CEN"
  | .status => "STATUS" | .data => "DATA" | .gc => "GC" | .addr => "ADDR" | .mask => "MASK"
  | .sclh => "SCLH" | .scll => "SCLL" | .mmEna => "MM_ENA" | .enaScl => "ENA_SCL" | .matchAll => "MATCH_ALL"

/-- R124: only the text of a field's name names the field. -/
theorem eq_text_of_fieldOfString {name : String} {f : FieldName} (h : fieldOfString name = some f) :
    name = f.text := by
  revert h
  fun_cases fieldOfString name <;> rintro ⟨⟩ <;> assumption

/-- R130, R131: a request fails for every string that names no field of the view. -/
theorem requestWord_error {r : RegName} {bit : String}
    (h : ∀ f d, fieldOf r f = some d → bit ≠ f.text) : requestWord r bit = .error .invalidRegister := by
  unfold requestWord
  split
  · rfl
  · next f hf =>
    have hnone : fieldOf r f = none :=
      Option.eq_none_iff_forall_ne_some.mpr fun d hd => h f d hd (eq_text_of_fieldOfString hf)
    rw [hnone]

/-- R125: the lowest bit of a field lies in its register's defined mask. -/
theorem fieldOf_lowBit_and_defmask {r : RegName} {name : FieldName} {f : FieldDesc} (h : fieldOf r name = some f) :
    (1#32 <<< f.low) &&& defmask r = 1#32 <<< f.low := by
  unfold fieldOf at h
  split at h <;> cases h <;> decide

/-- R130, R131: the word of a request has no reserved bit of its register set. -/
theorem requestWord_and_defmask {r : RegName} {bit : String} {w : Word} (h : requestWord r bit = .ok w) :
    w &&& defmask r = w := by
  obtain ⟨f, d, -, hd, rfl⟩ := requestWord_ok.mp h
  exact fieldOf_lowBit_and_defmask hd

/-- R75, R79, R80: a write of defined bits only records no fault; of CON it leaves what the register's view says. -/
theorem exec_writeOf_of_defined {s : State} {x : Instance} {r : RegName} {w : Word} (hx : s.insts[s.sel]? = some x)
    (hr : ¬(r = .stat ∨ r = .databuf)) (hw : w &&& defmask r = w) :
    ∃ t y, exec (writeOf r w) s = .next t ∧ t.insts[s.sel]? = some y ∧
      y.con = (if r = .conset then x.con.setBy w else if r = .conclr then x.con.clearBy w else x.con) ∧
      y.faults = x.faults := by
  have hexec := exec_eq (writeOf r w) hx
  refine ⟨_, _, hexec, exec_next_at_sel hexec hx, instrEffect_writeOf_con r w x, ?_⟩
  simp [instrEffect_writeOf_faults, hr, reservedSet_eq_false hw]

/-- Settles O59: a request fails for every string but the names of the view's fields (`requestWord_error`); its word lies
within the defined bits (`requestWord_and_defmask`), so the write records no fault (`exec_writeOf_of_defined`) and changes
exactly that bit (`Con.conval_setBy`, `Con.conval_clearBy`). -/
theorem requestsChangeOneControlBit : Obligations.RequestsChangeOneControlBit := by
  refine ⟨by decide, by decide, fun bit haa hsi hsto hsta hi2cen => requestWord_error fun f d hd => ?_,
    fun bit haa hsi hsta hi2cen => requestWord_error fun f d hd => ?_, fun bit w hreq s x hx => ?_,
    fun bit w hreq s x hx => ?_⟩
  · cases f with
    | aa => exact haa
    | si => exact hsi
    | sto => exact hsto
    | sta => exact hsta
    | i2cen => exact hi2cen
    | _ => cases hd
  · cases f with
    | aa => exact haa
    | si => exact hsi
    | sta => exact hsta
    | i2cen => exact hi2cen
    | _ => cases hd
  · have hw := requestWord_and_defmask hreq
    obtain ⟨t, y, hexec, hy, hcon, hfaults⟩ := exec_writeOf_of_defined hx (by decide) hw
    exact ⟨t, y, hexec, hy, by simp [hcon, Con.conval_setBy, hw], hfaults⟩
  · have hw := requestWord_and_defmask hreq
    obtain ⟨t, y, hexec, hy, hcon, hfaults⟩ := exec_writeOf_of_defined hx (by decide) hw
    exact ⟨t, y, hexec, hy, by simp [hcon, Con.conval_clearBy, hw], hfaults⟩

end Sys2Proof.Machine

/-! PROOF. The statements about the interrupt flag CON.SI and the output irq (60_exceptions.md: R136, R140), and about the
RESET event (70_reset_and_hazards.md: R147, R148). -/

namespace Sys2Proof.Machine

/-! What an access, an engine event and a step can make of SI (R136). -/

/-- R59, R72: an access that passes the checks of the port is the read or the write of the register at its offset. -/
theorem eq_readOf_or_writeOf_of_portCheck {kind : AccessKind} {size off : Nat} {i : Instr} {bs : List Byte}
    (hcheck : portCheck size off = none) (hd : decode (accessBytes size off kind) = .ok (i, bs)) :
    ∃ r, r.offset = off ∧ ((kind = .read ∧ i = readOf r) ∨ ∃ w, kind = .write w ∧ i = writeOf r w) := by
  obtain ⟨rfl, halign, hwin⟩ := portCheck_eq_none_iff.mp hcheck
  obtain ⟨r, hr, -, hread, hwrite⟩ := alignedOffsetSelectsOneRegister off hwin halign
  refine ⟨r, hr, ?_⟩
  cases kind with
  | read => cases hread.symm.trans hd; exact .inl ⟨rfl, rfl⟩
  | write w => cases (hwrite w).symm.trans hd; exact .inr ⟨w, rfl, rfl⟩
  | fetch => cases hd

/-- R79, R80: SI after a write. -/
theorem instrEffect_writeOf_si (r : RegName) (w : Word) (x : Instance) :
    (instrEffect (writeOf r w) x).con.si =
      if r = .conset then w.getLsbD 3 || x.con.si else if r = .conclr then !w.getLsbD 3 && x.con.si else x.con.si := by
  rw [instrEffect_writeOf_con, apply_ite Con.si, apply_ite Con.si, Con.setBy_si, Con.clearBy_si]

/-- R116: of the engine's events only SetSI changes SI. -/
theorem applyEvent_si_of_ne {e : EngineEvent} (he : e ≠ .setSI) (x : Instance) :
    (applyEvent e x).con.si = x.con.si := by
  cases e with
  | setSI => exact absurd rfl he
  | _ => rfl

/-- The next input is a 4-byte write of a 1 in bit 3 at offset `off` of `x`. -/
def WritesBitThree (s : State) (x : Instance) (off : Nat) : Prop :=
  ∃ a rest w, s.inputs = .access a :: rest ∧ a.kind = .write w ∧ w.getLsbD 3 = true ∧
    a.size = 4 ∧ x.params.base.toNat ≤ a.addr.toNat ∧ offIn x a = off

/-- What a step can make of SI of instance `m`, that was `x`: one constructor for each cause of R136, and the reset of
R34. -/
inductive SiStep (s : State) (m : Nat) (x : Instance) : Bool → Prop
  | stays {b} (same : b = x.con.si) : SiStep s m x b
  | conset (write : WritesBitThree s x 0x00) : SiStep s m x true
  | conclr (write : WritesBitThree s x 0x18) : SiStep s m x false
  | setSI {rest} (input : s.inputs = .engine m .setSI :: rest) : SiStep s m x true
  | reset {rest} (input : s.inputs = .reset m :: rest) : SiStep s m x false

/-- R77, R79, R80: a write leaves SI, or it is one of a 1 in bit 3 of CONSET or of CONCLR. -/
theorem siStep_write {s : State} {m : Nat} {x : Instance} {r : RegName} {w : Word}
    (h : w.getLsbD 3 = true → WritesBitThree s x r.offset) : SiStep s m x (instrEffect (writeOf r w) x).con.si := by
  rw [instrEffect_writeOf_si]
  cases hbit : w.getLsbD 3 with
  | false => exact .stays (by simp)
  | true =>
    have hwrite := h hbit
    split
    · next hr => subst hr; exact .conset hwrite
    · split
      · next hr => subst hr; exact .conclr hwrite
      · exact .stays rfl

/-- R136: every step makes of SI of every instance one of these. -/
theorem InstanceStep.siStep {s : State} {m : Nat} {x y : Instance} (h : InstanceStep s m x y) :
    SiStep s m x y.con.si := by
  cases h with
  | stays | portFault => exact .stays rfl
  | instr input region _ check decoded =>
    obtain ⟨hlo, -⟩ := findRegion_bounds region
    obtain ⟨hsize, -, -⟩ := portCheck_eq_none_iff.mp check
    obtain ⟨r, hoff, ⟨-, rfl⟩ | ⟨w, hkind, rfl⟩⟩ := eq_readOf_or_writeOf_of_portCheck check decoded
    · exact .stays (by rw [instrEffect_readOf_con])
    · exact siStep_write fun hbit =>
        ⟨_, _, w, input, hkind, hbit, hsize, hlo, (offsetOf_eq_offIn hlo).symm.trans hoff.symm⟩
  | @engine e _ input _ =>
    by_cases he : e = .setSI
    · subst he; exact .setSI input
    · exact .stays (applyEvent_si_of_ne he x)
  | reset input => exact .reset input

/-- Settles O49: of all a step can make of SI (`InstanceStep.siStep`), only the write of CONCLR and a reset leave 0 where 1
was. -/
theorem onlyConclrOrResetClearsSi : Obligations.OnlyConclrOrResetClearsSi := by
  intro s t m x y h hx hy hset hclear
  have hsi : SiStep s m x false := hclear ▸ (step_instance_at h hx hy).siStep
  cases hsi with
  | stays same => cases same.trans hset
  | conclr write => exact .inl write
  | reset input => exact .inr ⟨_, input⟩

/-- Settles O50: of all a step can make of SI (`InstanceStep.siStep`), only the write of CONSET and SetSI leave 1 where 0
was. -/
theorem onlyConsetOrEngineSetsSi : Obligations.OnlyConsetOrEngineSetsSi := by
  intro s t m x y h hx hy hclear hset
  have hsi : SiStep s m x true := hset ▸ (step_instance_at h hx hy).siStep
  cases hsi with
  | stays same => cases same.trans hclear
  | conset write => exact .inl write
  | setSI input => exact .inr ⟨_, input⟩

/-! The interrupt output (R113, R140). -/

/-- Settles O24: irq is SI, and 0x08 lies within the defined bits of both views of CON, so its write records no fault
(`exec_writeOf_of_defined`). -/
theorem clearingSiDropsTheInterrupt : Obligations.ClearingSiDropsTheInterrupt := by
  refine ⟨fun x => ⟨rfl, rfl⟩, fun s x hx => ⟨?_, ?_⟩⟩
  · obtain ⟨t, y, hexec, hy, hcon, hfaults⟩ :=
      exec_writeOf_of_defined (r := .conclr) (w := 0x08#32) hx (by decide) (by decide)
    exact ⟨t, y, hexec, hy, by simp [Instance.irq, hcon], hfaults⟩
  · obtain ⟨t, y, hexec, hy, hcon, hfaults⟩ :=
      exec_writeOf_of_defined (r := .conset) (w := 0x08#32) hx (by decide) (by decide)
    exact ⟨t, y, hexec, hy, by simp [Instance.irq, hcon], hfaults⟩

/-! The RESET event (R147, R148). -/

/-- R147, R148: the step of a RESET of an instance that is there. -/
theorem step_reset_eq {s : State} {n : Nat} {rest : List Input} {x : Instance} (hin : s.inputs = .reset n :: rest)
    (hx : s.insts[n]? = some x) : step s = .next { s with
      insts := s.insts.set n (Instance.atReset x.params s.draws x.faults)
      inputs := rest
      rdata := none
      draws := s.draws + resetDraws } := by
  rw [step_cons hin]
  simp [performInput, resetStep, hx]

/-- Settles O3: the step leaves `Instance.atReset` (`step_reset_eq`), which holds the draws from the counter on
(`atReset_holdsResetDraws`). -/
theorem resetEventAppliesResetValues : Obligations.ResetEventAppliesResetValues := by
  intro s n rest x hin hx
  exact ⟨_, step_reset_eq hin hx, Instance.atReset_params _ _ _, Instance.atReset_con _ _ _,
    Instance.atReset_faults _ _ _, rfl, atReset_holdsResetDraws _ _ _⟩

end Sys2Proof.Machine
